-- ==== Sys2Proof/Word.lean ====
section
/-!
DEFINITION. The word types of the core: the 32-bit word of the host interface and of the working registers (R9, R61),
and the 8-bit sample, character and stage code (R9, R35, R70).
-/

namespace Sys2Proof

/-- A word of the host interface, a configuration register or a 32-bit counter (R9, R29, R61). -/
abbrev Word := BitVec 32

/-- A sample, a message character or a stage code (R9, R35, R70). -/
abbrev Byte := BitVec 8

end Sys2Proof
end

