-- ==== Sys2Proof/Config.lean ====
section
/-!
DEFINITION. What is fixed for the core: the numeric literals of the source (R6; 93_implementation_defined.md I3 to I9),
each once, and the FREE VALUES, constants without a body that stand where the spec states no value.
-/

namespace Sys2Proof.Config

/-- The delimiter byte, all ones (R120). -/
def delimiter : Byte := 255#8

/-- The lowest printable byte, kept (R126). -/
def printableLo : Nat := 32

/-- The highest printable byte, kept (R126). -/
def printableHi : Nat := 126

/-- The code of the sentinel character '?' (R124). -/
def sentinel : Byte := 0x3F#8

/-- The first sequence number of a session (R36, R41). -/
def firstSeq : Word := 1#32

/-- Power-on value of D, the debounce depth (R29). -/
def defaultD : Word := 10#32

/-- Power-on value of W, the bit buffer width (R29). -/
def defaultW : Word := 12#32

/-- Power-on value of TOL_NUM (R29). -/
def defaultTolNum : Word := 1#32

/-- Power-on value of TOL_DEN (R29). -/
def defaultTolDen : Word := 2#32

/-- The value at which a 32-bit counter saturates (R9, R14). -/
def counterMax : Nat := 4294967295

/-- The greatest block length, G*A*V at most (R80 (2)). -/
def maxBlock : Nat := 16777215

/-- FREE VALUE (assumption 8): what a stage operation reads from configuration register `i` while it is UNSET (R31 gives it
no value). In a session only THRESH can be so read: every other register a stage reads is checked by R80. -/
opaque unsetRegister (i : Nat) : Word

/-- FREE VALUE (assumption 9): the value `seq` holds after message 2^32-1, whose successor does not fit 32 bits (R128), as a
function of the number of messages emitted so far. -/
opaque seqBeyond (n : Nat) : Word

/-- FREE VALUE (assumption 10): the sample read at an index beyond the block; no BLOCK reads there (R84). -/
opaque absentSample (i : Nat) : Byte

/-- FREE VALUE (assumption 10): a rounded quotient with divisor 0; R14 asks for `d >= 1` and R80 refuses the
configurations that would give 0. -/
opaque quotientByZero (n : Nat) : Nat

/-- FREE VALUE (assumption 10): the 32-bit register value of an exact result that does not fit; under R80 every
result fits (R106, R108). -/
opaque beyond32 (n : Nat) : Word

end Sys2Proof.Config
end

