-- ==== Sys2Proof/Syntax.lean ====
section
/-!
DEFINITION. The operations of the core (R61): one constructor for each row of spec/opcode_table.json, five host
transactions and fifteen stage operations; the names of the configuration registers (R29); and the two forms an
operation's encoding has (R61).
-/

namespace Sys2Proof

/-- The operations of the core (R61). A host transaction carries its operands; a stage operation takes its operands from
the gap-step latches of the state (R70: its code names it and carries nothing). -/
inductive Instr
  /-- RESET: start a new session (R79). -/
  | reset
  /-- CFGW: write configuration register `idx` with `value` (R81). -/
  | cfgw (idx : BitVec 8) (value : Word)
  /-- BLOCK: process one sample block; LEN is the number of samples (R84). -/
  | block (samples : List Byte)
  /-- END: end of stream (`reason` = false) or acquisition error (`reason` = true) (R87). -/
  | endSession (reason : Bool)
  /-- CANCEL: an external cancellation request (R88). -/
  | cancel
  /-- AVG: the sample averager (R93). -/
  | avg
  /-- GAPDET: the gap detector (R95). -/
  | gapdet
  /-- DEBOUNCE: the debounce filter (R97). -/
  | debounce
  /-- BRFIX: the fixed bitrate (R105). -/
  | brfix
  /-- BRAUTO: bitrate auto-detection (R107). -/
  | brauto
  /-- BITDET: bit detection (R114). -/
  | bitdet
  /-- GAPEND: close the gap step (R117). -/
  | gapend
  /-- BITAPPEND: append a detected bit in Frame (R118). -/
  | bitappend
  /-- BYTEDONE: decode and classify a full bit buffer (R120). -/
  | bytedone
  /-- DELIM_OPEN: the first delimiter of a session (R122). -/
  | delimOpen
  /-- DELIM_CLOSE: a later delimiter (R123). -/
  | delimClose
  /-- PAYLOAD: validate a byte and append its character (R124). -/
  | payload
  /-- DISCARD: drop a byte before the stream is opened (R130). -/
  | discard
  /-- MSGEMIT: emit the current message (R128). -/
  | msgemit
  /-- IFBIT: a detected bit in Interframe (R129). -/
  | ifbit
  deriving DecidableEq, Repr

/-- The sixteen configuration registers of R29, in index order. -/
inductive CfgReg
  | g | a | v | thresh | d | w | parityEn | parityOdd
  | autoEn | fixedBitrate | tolNum | tolDen | stopCount | detLo | detHi | maxMsg
  deriving DecidableEq, Repr

/-- The two forms an operation's code has (R61): the words of a host transaction, or a stage code. -/
inductive Encoding
  /-- Words on the host interface, the header first (R62). -/
  | host (words : List Word)
  /-- A stage code, which never appears on the host interface (R70). -/
  | stage (code : Byte)
  deriving DecidableEq, Repr

end Sys2Proof
end

