-- ==== Sys2Proof/WellFormed.lean ====
section
/-!
DEFINITION. Which operations have a legal encoding: a configuration index below 16 (R64, R72) and a block length that
fits the 24-bit LEN field (R65). Every other operand takes every value of its type.
-/

namespace Sys2Proof

/-- The operation has a legal encoding (R63 to R67, R70, R72). -/
def Instr.wf : Instr → Bool
  | .reset => true
  | .cfgw idx _ => decide (idx.toNat < 16)
  | .block samples => decide (samples.length < 16777216)
  | .endSession _ => true
  | .cancel => true
  | .avg => true
  | .gapdet => true
  | .debounce => true
  | .brfix => true
  | .brauto => true
  | .bitdet => true
  | .gapend => true
  | .bitappend => true
  | .bytedone => true
  | .delimOpen => true
  | .delimClose => true
  | .payload => true
  | .discard => true
  | .msgemit => true
  | .ifbit => true

/-- The operation is a host transaction, not a stage operation (R61). -/
def Instr.isTransaction : Instr → Bool
  | .reset => true
  | .cfgw _ _ => true
  | .block _ => true
  | .endSession _ => true
  | .cancel => true
  | .avg => false
  | .gapdet => false
  | .debounce => false
  | .brfix => false
  | .brauto => false
  | .bitdet => false
  | .gapend => false
  | .bitappend => false
  | .bytedone => false
  | .delimOpen => false
  | .delimClose => false
  | .payload => false
  | .discard => false
  | .msgemit => false
  | .ifbit => false

end Sys2Proof
end

