-- ==== Sys2Proof/Decode.lean ====
section
/-!
DEFINITION. The decoder of the host word stream (R61 to R74), total on every list of words and rejecting by name; the
stage codes (R70); the encoder, written from the same rules; and the host's table words (`decodeTableWord`).
-/

namespace Sys2Proof

/-- Why a header is an illegal encoding (R72), in the order R71 checks. -/
inductive Illegal
  /-- OP 0x5 to 0xF. -/
  | reservedOp
  /-- A must-be-zero bit of the header is set. -/
  | mustBeZero
  /-- CFGW with IDX 16 to 255. -/
  | reservedIndex
  deriving DecidableEq, Repr

/-- What the decoder makes of the words that the host has delivered. -/
inductive Decoded
  /-- A legal transaction, complete; the words after it. -/
  | ok (i : Instr) (rest : List Word)
  /-- An illegal transaction (R72), named by its header alone; the words after it. -/
  | illegal (why : Illegal) (rest : List Word)
  /-- No words, or a legal header whose payload words are not all there. -/
  | waiting
  deriving DecidableEq, Repr

/-! ## Header fields (R62, R64 to R66, R68) -/

/-- OP = bits [3:0] (R62). -/
def opOf (h : Word) : Nat := (h.extractLsb' 0 4).toNat

/-- SUB = bits [7:4] (R62). -/
def subOf (h : Word) : BitVec 4 := h.extractLsb' 4 4

/-- ARG = bits [31:8] (R62); LEN of a BLOCK (R65). -/
def argOf (h : Word) : BitVec 24 := h.extractLsb' 8 24

/-- IDX = bits [15:8] of a CFGW (R64). -/
def idxOf (h : Word) : BitVec 8 := h.extractLsb' 8 8

/-- Bits [31:16], zero in a CFGW (R64). -/
def cfgwHigh (h : Word) : BitVec 16 := h.extractLsb' 16 16

/-- REASON = bit [4] of an END (R66). -/
def reasonOf (h : Word) : Bool := h.getLsbD 4

/-- Bits [7:5], zero in an END (R66). -/
def endHigh (h : Word) : BitVec 3 := h.extractLsb' 5 3

/-- How many payload words follow a header, from the header alone (R69). -/
def payloadWords (h : Word) : Nat :=
  match opOf h with
  | 1 => 1
  | 2 => ((argOf h).toNat + 3) / 4
  | _ => 0

/-- The length of a transaction in words (R69). -/
def transactionLength (h : Word) : Nat := 1 + payloadWords h

/-- The first check of R71 that a header fails, if any: OP, then the must-be-zero bits, then (CFGW) the index. -/
def headerProblem (h : Word) : Option Illegal :=
  match opOf h with
  | 0 => if subOf h = 0 ∧ argOf h = 0 then none else some .mustBeZero
  | 1 =>
    if subOf h = 0 ∧ cfgwHigh h = 0 then
      if (idxOf h).toNat < 16 then none else some .reservedIndex
    else some .mustBeZero
  | 2 => if subOf h = 0 then none else some .mustBeZero
  | 3 => if endHigh h = 0 ∧ argOf h = 0 then none else some .mustBeZero
  | 4 => if subOf h = 0 ∧ argOf h = 0 then none else some .mustBeZero
  | _ => some .reservedOp

/-! ## Payload packing (R47, R68) -/

/-- The four bytes of a payload word, lowest first (R47). -/
def unpackWord (w : Word) : List Byte :=
  [w.extractLsb' 0 8, w.extractLsb' 8 8, w.extractLsb' 16 8, w.extractLsb' 24 8]

/-- The bytes of a list of payload words, in index order (R47, R68). -/
def unpackWords (ws : List Word) : List Byte := ws.flatMap unpackWord

/-- The word that holds four bytes, the first lowest (R47). -/
def packWord (b0 b1 b2 b3 : Byte) : Word := b3 ++ b2 ++ b1 ++ b0

/-- A list of bytes as payload words, the unused high bytes of the last word 0 (R47). -/
def packBytes : List Byte → List Word
  | [] => []
  | [b0] => [packWord b0 0 0 0]
  | [b0, b1] => [packWord b0 b1 0 0]
  | [b0, b1, b2] => [packWord b0 b1 b2 0]
  | b0 :: b1 :: b2 :: b3 :: rest => packWord b0 b1 b2 b3 :: packBytes rest

/-! ## Host transactions -/

/-- The transaction of a header that passes R71's checks, with its payload words (R63 to R68). -/
def assemble (h : Word) (payload : List Word) : Instr :=
  match opOf h with
  | 0 => .reset
  | 1 => .cfgw (idxOf h) (payload.headD 0)
  | 2 => .block ((unpackWords payload).take (argOf h).toNat)
  | 3 => .endSession (reasonOf h)
  | _ => .cancel

/-- The first transaction of a word stream (R61 to R74). An illegal header is decided by itself (R69, R71); as many of the
words of its length as are there are dropped with it. -/
def decode : List Word → Decoded
  | [] => .waiting
  | h :: rest =>
    match headerProblem h with
    | some why => .illegal why (rest.drop (payloadWords h))
    | none =>
      if rest.length < payloadWords h then .waiting
      else .ok (assemble h (rest.take (payloadWords h))) (rest.drop (payloadWords h))

/-! ## Stage codes (R70) -/

/-- The stage operation a code names; the codes not listed name nothing (R70). -/
def decodeStage (code : Byte) : Option Instr :=
  match code.toNat with
  | 0x10 => some .avg
  | 0x11 => some .gapdet
  | 0x12 => some .debounce
  | 0x20 => some .brfix
  | 0x21 => some .brauto
  | 0x30 => some .bitdet
  | 0x31 => some .gapend
  | 0x32 => some .bitappend
  | 0x33 => some .bytedone
  | 0x34 => some .delimOpen
  | 0x35 => some .delimClose
  | 0x36 => some .payload
  | 0x37 => some .discard
  | 0x38 => some .msgemit
  | 0x39 => some .ifbit
  | _ => none

/-- The operation an encoding of either form stands for, where it stands for exactly one and no word is left over. -/
def decodeEncoding : Encoding → Option Instr
  | .host ws =>
    match decode ws with
    | .ok i [] => some i
    | .ok _ (_ :: _) => none
    | .illegal _ _ => none
    | .waiting => none
  | .stage code => decodeStage code

/-! ## The encoder -/

/-- A header from its fields (R62). -/
def header (arg : BitVec 24) (sub op : BitVec 4) : Word := arg ++ sub ++ op

/-- The encoding of an operation (R63 to R67 for host transactions, R70 for stage operations). -/
def encode : Instr → Encoding
  | .reset => .host [header 0 0 0x0]
  | .cfgw idx value => .host [header ((0#16 : BitVec 16) ++ idx) 0 0x1, value]
  | .block samples => .host (header (BitVec.ofNat 24 samples.length) 0 0x2 :: packBytes samples)
  | .endSession reason => .host [header 0 ((0#3 : BitVec 3) ++ BitVec.ofBool reason) 0x3]
  | .cancel => .host [header 0 0 0x4]
  | .avg => .stage 0x10
  | .gapdet => .stage 0x11
  | .debounce => .stage 0x12
  | .brfix => .stage 0x20
  | .brauto => .stage 0x21
  | .bitdet => .stage 0x30
  | .gapend => .stage 0x31
  | .bitappend => .stage 0x32
  | .bytedone => .stage 0x33
  | .delimOpen => .stage 0x34
  | .delimClose => .stage 0x35
  | .payload => .stage 0x36
  | .discard => .stage 0x37
  | .msgemit => .stage 0x38
  | .ifbit => .stage 0x39

/-- The words of a host transaction; a stage operation has none (R61). -/
def hostWords (i : Instr) : List Word :=
  match encode i with
  | .host ws => ws
  | .stage _ => []

/-! ## Configuration register indices (R29) -/

/-- The index of a configuration register (R29). -/
def CfgReg.index : CfgReg → Nat
  | .g => 0
  | .a => 1
  | .v => 2
  | .thresh => 3
  | .d => 4
  | .w => 5
  | .parityEn => 6
  | .parityOdd => 7
  | .autoEn => 8
  | .fixedBitrate => 9
  | .tolNum => 10
  | .tolDen => 11
  | .stopCount => 12
  | .detLo => 13
  | .detHi => 14
  | .maxMsg => 15

/-- The configuration register of an index; 16 to 255 are reserved (R29, R72). -/
def CfgReg.ofIndex (idx : BitVec 8) : Option CfgReg :=
  match idx.toNat with
  | 0 => some .g
  | 1 => some .a
  | 2 => some .v
  | 3 => some .thresh
  | 4 => some .d
  | 5 => some .w
  | 6 => some .parityEn
  | 7 => some .parityOdd
  | 8 => some .autoEn
  | 9 => some .fixedBitrate
  | 10 => some .tolNum
  | 11 => some .tolDen
  | 12 => some .stopCount
  | 13 => some .detLo
  | 14 => some .detHi
  | 15 => some .maxMsg
  | _ => none

/-! ## The host's table words -/

/-- The 32-bit words of an instruction whose bits are `w`, as many as `nbits` takes and at least the header, and then
words of zeros up to the length its header gives (R69). -/
def tableWords (nbits w : Nat) : List Word :=
  let given := max 1 ((nbits + 31) / 32)
  (List.range (max given (transactionLength (BitVec.ofNat 32 w)))).map
    fun k => if k < given then BitVec.ofNat 32 (w >>> (32 * k)) else 0

/-- The instruction the decoder reads from an instruction whose bits are `w`, numbered as the opcode table numbers them.
A row of at most 8 bits is a stage code (R70), any other the words of a host transaction. -/
def decodeTableWord (nbits w : Nat) : Option Instr :=
  if nbits ≤ 8 then decodeStage (BitVec.ofNat 8 w)
  else
    match decode (tableWords nbits w) with
    | .ok i _ => some i
    | .illegal _ _ => none
    | .waiting => none

end Sys2Proof
end

