-- ==== Sys2Proof/Machine/State.lean ====
section
/-!
DEFINITION. The state of the core (10_state.md), every register under its own name, as plain data; its reasons to stop;
and its power-on value (R41, R153).
-/

namespace Sys2Proof.Machine

/-- `run_state` (R22): 0 Halted, 1 Running, 2 Faulted; 3 is never held. -/
inductive RunState
  | halted | running | faulted
  deriving DecidableEq, Repr

/-- `fault_code` (R23): 0 NONE, 1 CONFIG_ERROR, 2 ILLEGAL_TRANSACTION; no other value is ever written. -/
inductive FaultCode
  | none | configError | illegalTransaction
  deriving DecidableEq, Repr

/-- `term_reason` (R24): 0 NONE, 1 END_OF_STREAM, 2 ACQ_ERROR, 3 CANCELLED. -/
inductive TermReason
  | none | endOfStream | acqError | cancelled
  deriving DecidableEq, Repr

/-- `decoder_state` (R25): 0 BitrateDetect, 1 Frame, 2 Interframe; 3 is never held. -/
inductive DecoderState
  | bitrateDetect | frame | interframe
  deriving DecidableEq, Repr

/-- The sixteen configuration registers (R29); `none` is UNSET (R31). -/
structure ConfigRegs where
  g : Option Word
  a : Option Word
  v : Option Word
  thresh : Option Word
  d : Option Word
  w : Option Word
  parityEn : Option Word
  parityOdd : Option Word
  autoEn : Option Word
  fixedBitrate : Option Word
  tolNum : Option Word
  tolDen : Option Word
  stopCount : Option Word
  detLo : Option Word
  detHi : Option Word
  maxMsg : Option Word
  deriving DecidableEq, Repr

/-- A message output event (R128, R132): its sequence number and its text, character 0 first (R48). -/
structure Msg where
  seq : Word
  text : List Byte
  deriving DecidableEq, Repr

/-- The values that pass between the stage operations of one gap step (R21, R37, R38, R90). They are ephemeral: between two
transactions they are idle (`Work.idle`). Held here so that each stage operation is an operation of its own
(assumption 3). -/
structure Work where
  /-- The samples of the BLOCK in progress, sample 0 first (R38). -/
  block : List Byte
  /-- The gap index g (R21, R89). -/
  gap : Nat
  /-- The averages avg[0..A-1], exact (R37, R93). -/
  avg : List Nat
  /-- The sub-bit s (R95). -/
  sub : Bool
  /-- The debounced sub-bit d (R97). -/
  d : Bool
  /-- The bit BITDET detected (R114). -/
  bit : Bool
  /-- The byte BYTEDONE decoded (R120). -/
  byte : Byte
  /-- Its computed parity (R120). -/
  par : Bool
  /-- Its received parity bit (R120, R121). -/
  rxp : Bool
  deriving DecidableEq, Repr

/-- The state of the core. -/
structure State where
  /-- R22. -/
  runState : RunState
  /-- R23. -/
  faultCode : FaultCode
  /-- R24. -/
  termReason : TermReason
  /-- R25. -/
  decoderState : DecoderState
  /-- The debounced sub-bit of the previous gap (R26). -/
  prevD : Bool
  /-- Set by the first delimiter of the session (R26). -/
  streamOpened : Bool
  /-- The gaps-since-last-bit counter (R27). -/
  nSame : Word
  /-- R28. -/
  bitrate : Word
  /-- R28. -/
  tolerance : Word
  /-- R29 to R31. -/
  cfg : ConfigRegs
  /-- db[0..L-1], newest slot first (R32). -/
  db : List Bool
  /-- est[0..est_cnt-1]; every later entry is 0 (R33; assumption 6). -/
  est : List Word
  /-- bb[0..bb_cnt-1]; every later slot is 0 (R34; assumption 6). -/
  bb : List Bool
  /-- msg_buf[0..msg_len-1] (R35; assumption 6). -/
  msgBuf : List Byte
  /-- The number the next message will carry (R36). -/
  seq : Word
  /-- MODEL: message 2^32-1 of the session has been emitted, so no next number exists (R128; assumption 9). -/
  seqSpent : Bool
  /-- The message events emitted since power-on, oldest first (R128, R132). -/
  out : List Msg
  /-- MODEL: the length of `out` at the last successful RESET (R165; assumption 11). -/
  runStart : Nat
  /-- The history of faults, oldest first, which no step clears (R43, R140). -/
  faults : List FaultCode
  /-- MODEL: the words the host has delivered that the core has not consumed (R61; assumption 2). -/
  rx : List Word
  /-- MODEL: a stage code to be dispatched by itself (R70; assumption 3). -/
  stagePort : Option Byte
  /-- The gap-step latches (R37; assumption 3). -/
  work : Work
  deriving DecidableEq, Repr

/-- Why the machine would stop with a fault: nothing does. A fault of the spec is a NEXT state whose `run_state` is Faulted
(R138), so this type has no constructor (assumption 13; safe: it removes no behaviour). -/
inductive Fault
  deriving DecidableEq, Repr

/-- Why a step has no meaning. -/
inductive Refusal
  /-- Raised by an arm of `exec` for an instruction without a meaning. Safe: the run stops there. -/
  | notModelled (mnemonic : String)
  /-- Raised by MSGEMIT, and by the operations that reach it, when the session would emit a message numbered 2^32: R128 and
  93_implementation_defined.md I27 put that session outside the spec. Safe: the run stops there. -/
  | sequenceOverflow
  deriving DecidableEq, Repr

/-- What an operation answers. -/
abbrev Result := Host.Outcome State Fault Refusal

/-- The power-on values of the configuration registers (R29): four defaults, the rest UNSET. -/
def ConfigRegs.powerOn : ConfigRegs where
  g := none
  a := none
  v := none
  thresh := none
  d := some Config.defaultD
  w := some Config.defaultW
  parityEn := none
  parityOdd := none
  autoEn := none
  fixedBitrate := none
  tolNum := some Config.defaultTolNum
  tolDen := some Config.defaultTolDen
  stopCount := none
  detLo := none
  detHi := none
  maxMsg := none

/-- The latches while no gap step is in progress (assumption 3). -/
def Work.idle : Work where
  block := []
  gap := 0
  avg := []
  sub := false
  d := false
  bit := false
  byte := 0
  par := false
  rxp := false

/-- Power-on (R41, R153): Halted, no session, the configuration at its power-on values, the debounce register of D+2 = 12
slots all 0, and the sequence number 1. -/
def State.reset : State where
  runState := .halted
  faultCode := .none
  termReason := .none
  decoderState := .bitrateDetect
  prevD := false
  streamOpened := false
  nSame := 0
  bitrate := 0
  tolerance := 0
  cfg := ConfigRegs.powerOn
  db := List.replicate 12 false
  est := []
  bb := []
  msgBuf := []
  seq := Config.firstSeq
  seqSpent := false
  out := []
  runStart := 0
  faults := []
  rx := []
  stagePort := none
  work := Work.idle

end Sys2Proof.Machine
end

