-- ==== Sys2Proof/Machine/Operands.lean ====
section
/-!
DEFINITION. The operand forms: configuration registers, their values as the stages read them, the counts kept as lengths,
the slots of the arrays, and the samples of the block in progress (R12, R29 to R36, R47, R50).
-/

namespace Sys2Proof.Machine

/-! ## Configuration registers (R29 to R31) -/

/-- The content of a configuration register, `none` while UNSET (R31). -/
def ConfigRegs.read (c : ConfigRegs) : CfgReg → Option Word
  | .g => c.g
  | .a => c.a
  | .v => c.v
  | .thresh => c.thresh
  | .d => c.d
  | .w => c.w
  | .parityEn => c.parityEn
  | .parityOdd => c.parityOdd
  | .autoEn => c.autoEn
  | .fixedBitrate => c.fixedBitrate
  | .tolNum => c.tolNum
  | .tolDen => c.tolDen
  | .stopCount => c.stopCount
  | .detLo => c.detLo
  | .detHi => c.detHi
  | .maxMsg => c.maxMsg

/-- `cfg[IDX] <- VALUE`, verbatim (R30, R81). -/
def ConfigRegs.write (c : ConfigRegs) (x : Word) : CfgReg → ConfigRegs
  | .g => { c with g := some x }
  | .a => { c with a := some x }
  | .v => { c with v := some x }
  | .thresh => { c with thresh := some x }
  | .d => { c with d := some x }
  | .w => { c with w := some x }
  | .parityEn => { c with parityEn := some x }
  | .parityOdd => { c with parityOdd := some x }
  | .autoEn => { c with autoEn := some x }
  | .fixedBitrate => { c with fixedBitrate := some x }
  | .tolNum => { c with tolNum := some x }
  | .tolDen => { c with tolDen := some x }
  | .stopCount => { c with stopCount := some x }
  | .detLo => { c with detLo := some x }
  | .detHi => { c with detHi := some x }
  | .maxMsg => { c with maxMsg := some x }

/-- The register holds a value (R31). -/
def ConfigRegs.holds (c : ConfigRegs) (r : CfgReg) : Bool := (c.read r).isSome

/-- The value a stage operation reads from a register: its content; while it is UNSET a free value (assumption 8). -/
def ConfigRegs.value (c : ConfigRegs) (r : CfgReg) : Word :=
  (c.read r).getD (Config.unsetRegister r.index)

/-- The same value as a natural number (R10). -/
def ConfigRegs.num (c : ConfigRegs) (r : CfgReg) : Nat := (c.value r).toNat

/-- The block length N = G*A*V (R8). -/
def ConfigRegs.blockLength (c : ConfigRegs) : Nat := c.num .g * c.num .a * c.num .v

/-- The length of the debounce register, L = D+2 (R32). -/
def ConfigRegs.debounceLength (c : ConfigRegs) : Nat := c.num .d + 2

/-! ## Counts and slots (R33 to R35) -/

/-- `est_cnt` (R33). -/
def State.estCnt (s : State) : Nat := s.est.length

/-- `bb_cnt` (R34). -/
def State.bbCnt (s : State) : Nat := s.bb.length

/-- `msg_len`, 16 bits (R35). -/
def State.msgLen (s : State) : BitVec 16 := BitVec.ofNat 16 s.msgBuf.length

/-- `bb[i]`: a slot not filled since the last clear is 0 (R34, R120). -/
def slot (bb : List Bool) (i : Nat) : Bool := bb.getD i false

/-- `est[i]`: an entry not recorded since RESET is 0 (R33). -/
def interval (est : List Word) (i : Nat) : Nat := (est.getD i 0).toNat

/-! ## Samples (R12, R45, R50) -/

/-- The first `n` samples of a list whose head has index `i`; beyond its end a free value (assumption 10). -/
def takeSamples : Nat → Nat → List Byte → List Byte
  | 0, _, _ => []
  | n + 1, i, x :: rest => x :: takeSamples n (i + 1) rest
  | n + 1, i, [] => Config.absentSample i :: takeSamples n (i + 1) []

/-- `MemRead(i, n)`: the `n` samples at indices `i` to `i+n-1` of the block (R12). -/
def memRead (block : List Byte) (i n : Nat) : List Byte := takeSamples n i (block.drop i)

end Sys2Proof.Machine
end

