-- ==== Sys2Proof/Machine/Flags.lean ====
section
/-!
DEFINITION. The arithmetic of R14 and every one-bit result the rules compute: the gap detector's threshold, the debounce
agreement, the edge and timeout tests, the decoded byte and its parity, and the printable test.
-/

namespace Sys2Proof.Machine

/-! ## Arithmetic helpers (R14) -/

/-- `round_half_up(n, d)`, the nearest integer, ties upward; R14 defines it for d >= 1 (assumption 10 for 0). -/
def roundHalfUp (n d : Nat) : Nat :=
  if d = 0 then Config.quotientByZero n else (2 * n + d) / (2 * d)

/-- `sat32(x)` (R14). -/
def sat32 (x : Nat) : Nat := min x Config.counterMax

/-- An exact result as the content of a 32-bit register; one that does not fit is a free value (assumption 10). -/
def toWord (n : Nat) : Word :=
  if n < 4294967296 then BitVec.ofNat 32 n else Config.beyond32 n

/-- `tol(b)` (R14, R106). -/
def tol (c : ConfigRegs) (b : Nat) : Nat := roundHalfUp (b * c.num .tolNum) (c.num .tolDen)

/-! ## Gap detector (R95) -/

/-- S, the sum of `|avg[i+1] - avg[i]|` over consecutive pairs; 0 for one average. -/
def diffSum : List Nat → Nat
  | [] => 0
  | [_] => 0
  | x :: y :: rest => ((y : Int) - (x : Int)).natAbs + diffSum (y :: rest)

/-- The sub-bit: 1 exactly when S is below the threshold (R95). -/
def subBit (avg : List Nat) (thresh : Nat) : Bool := decide (diffSum avg < thresh)

/-! ## Debounce (R97, R98) -/

/-- The register after the new sub-bit is shifted in at the front, before any correction (R97). -/
def shiftIn (db : List Bool) (x : Bool) : List Bool := x :: db.dropLast

/-- The oldest slot, db[L-1] (R32). -/
def oldest (db : List Bool) : Bool := db.getLastD false

/-- How many interior slots, db[1..L-2], differ from `c` (R97, R98). -/
def bounceCount (db : List Bool) (c : Bool) : Nat := (db.tail.dropLast).countP (fun x => x != c)

/-- The register after DEBOUNCE: shifted, and overwritten with the newest value where newest and oldest agree and some
interior slot does not (R97). -/
def debounced (db : List Bool) (x : Bool) : List Bool :=
  let shifted := shiftIn db x
  if x = oldest shifted ∧ 0 < bounceCount shifted x then List.replicate shifted.length x else shifted

/-! ## Bit detection (R114 to R116) -/

/-- The edge test, `d != prev_d` (R115). -/
def edge (s : State) : Bool := s.work.d != s.prevD

/-- The timeout test, `n_same > bitrate + tolerance`, with the exact sum (R114, R116). -/
def timeout (s : State) : Bool := decide (s.bitrate.toNat + s.tolerance.toNat < s.nSame.toNat)

/-! ## Byte and parity (R120, R121, R124 to R126) -/

/-- The decoded byte: the sum of bit i * 2^i over the first 8 slots (R46, R120). -/
def byteOf (bb : List Bool) : Byte :=
  BitVec.ofNat 8 (((List.range 8).map fun i => (slot bb i).toNat * 2 ^ i).sum)

/-- The computed parity: the exclusive or of the same 8 slots (R120). -/
def parityOf (bb : List Bool) : Bool := ((List.range 8).map (slot bb)).foldl xor false

/-- The received parity bit: slot 8, or 0 where the buffer has only 8 slots (R120, R121). -/
def receivedParity (c : ConfigRegs) (bb : List Bool) : Bool :=
  if 9 ≤ c.num .w then slot bb 8 else false

/-- The parity bit the convention asks for (R124, R125). -/
def expectedParity (c : ConfigRegs) (par : Bool) : Bool :=
  if c.num .parityOdd = 0 then par else !par

/-- The parity test fails (R124, R125). -/
def parityBad (c : ConfigRegs) (par rxp : Bool) : Bool :=
  decide (c.num .parityEn = 1) && (rxp != expectedParity c par)

/-- The byte is printable: 32 to 126 inclusive (R126). -/
def printable (b : Byte) : Bool :=
  decide (Config.printableLo ≤ b.toNat ∧ b.toNat ≤ Config.printableHi)

/-- The character a payload byte gives: itself, or the sentinel where it fails a test (R124 to R126). -/
def payloadChar (c : ConfigRegs) (b : Byte) (par rxp : Bool) : Byte :=
  if parityBad c par rxp || !printable b then Config.sentinel else b

end Sys2Proof.Machine
end

