-- ==== Sys2Proof/Machine/Ops.lean ====
section
/-!
DEFINITION. The operations that several instructions share: sequencing, raising a fault (R138), ending a session (R141),
starting one (R79, R154), the configuration check (R80), and an illegal transaction (R72, R135).
-/

namespace Sys2Proof.Machine

/-- Runs `f` on the state an operation answers; a stop stays a stop. -/
def andThen (r : Result) (f : State → Result) : Result :=
  match r with
  | .next s => f s
  | .fault e => .fault e
  | .refused e => .refused e

/-- `raise Fault(code)` (R13, R138): `fault_code` and `run_state` are written and the fault goes into the history (R43);
the transaction has no other effect. -/
def raiseFault (code : FaultCode) (s : State) : State :=
  { s with faultCode := code, runState := .faulted, faults := s.faults ++ [code] }

/-- `terminate(reason)` (R42, R141). -/
def terminate (reason : TermReason) (s : State) : State :=
  { s with msgBuf := [], termReason := reason, runState := .halted }

/-- What a transaction does that is illegal by its encoding or in this `run_state`: ILLEGAL_TRANSACTION, or nothing
while Faulted (R43, R72, R135). -/
def illegalTransaction (s : State) : State :=
  match s.runState with
  | .faulted => s
  | .halted => raiseFault .illegalTransaction s
  | .running => raiseFault .illegalTransaction s

/-! ## ConfigLegal (R80), clause by clause -/

/-- R80 (1): the registers that must hold a value do. -/
def legalPresent (c : ConfigRegs) : Bool :=
  c.holds .g && c.holds .a && c.holds .v && c.holds .d && c.holds .w && c.holds .parityEn && c.holds .parityOdd &&
    c.holds .autoEn && c.holds .tolNum && c.holds .tolDen && c.holds .maxMsg &&
    (decide (c.num .autoEn ≠ 0) || c.holds .fixedBitrate) &&
    (decide (c.num .autoEn ≠ 1) || (c.holds .stopCount && c.holds .detLo && c.holds .detHi))

/-- R80 (2): the three factors are positive and their product fits LEN. -/
def legalLength (c : ConfigRegs) : Bool :=
  decide (1 ≤ c.num .g ∧ 1 ≤ c.num .a ∧ 1 ≤ c.num .v ∧ c.blockLength ≤ Config.maxBlock)

/-- R80 (3): the debounce depth. -/
def legalDepth (c : ConfigRegs) : Bool := decide (c.num .d ≤ 1022)

/-- R80 (4): the three one-bit registers. -/
def legalBits (c : ConfigRegs) : Bool :=
  decide (c.num .parityEn ≤ 1 ∧ c.num .parityOdd ≤ 1 ∧ c.num .autoEn ≤ 1)

/-- R80 (5): the bit buffer width. -/
def legalWidth (c : ConfigRegs) : Bool :=
  decide (8 ≤ c.num .w ∧ c.num .w ≤ 32 ∧ (c.num .parityEn = 1 → 9 ≤ c.num .w))

/-- R80 (6): the tolerance ratio. -/
def legalRatio (c : ConfigRegs) : Bool :=
  decide (c.num .tolNum ≤ 65535 ∧ 1 ≤ c.num .tolDen ∧ c.num .tolDen ≤ 65535 ∧ c.num .tolNum ≤ c.num .tolDen)

/-- R80 (7): the maximum message length. -/
def legalMaxMsg (c : ConfigRegs) : Bool := decide (c.num .maxMsg ≤ 65535)

/-- R80 (8): the fixed bitrate, when it is used. -/
def legalFixed (c : ConfigRegs) : Bool := decide (c.num .autoEn ≠ 0) || decide (1 ≤ c.num .fixedBitrate)

/-- R80 (9): the interval array and its window, when they are used. -/
def legalWindow (c : ConfigRegs) : Bool :=
  decide (c.num .autoEn ≠ 1) ||
    decide (1 ≤ c.num .stopCount ∧ c.num .stopCount ≤ 1024 ∧ c.num .detLo < c.num .detHi ∧
      c.num .detHi ≤ c.num .stopCount)

/-- `ConfigLegal()` (R80). THRESH is not checked. -/
def configLegal (c : ConfigRegs) : Bool :=
  legalPresent c && legalLength c && legalDepth c && legalBits c && legalWidth c && legalRatio c && legalMaxMsg c &&
    legalFixed c && legalWindow c

/-- A successful RESET (R79, R41): every session register to its "after RESET" value, `run_state` Running, the
configuration unchanged; a new run begins (R165). -/
def startSession (s : State) : State :=
  { s with
    runState := .running
    faultCode := .none
    termReason := .none
    decoderState := .bitrateDetect
    prevD := false
    streamOpened := false
    nSame := 0
    bitrate := 0
    tolerance := 0
    db := List.replicate s.cfg.debounceLength false
    est := []
    bb := []
    msgBuf := []
    seq := Config.firstSeq
    seqSpent := false
    runStart := s.out.length
    work := Work.idle }

end Sys2Proof.Machine
end

