-- ==== Sys2Proof/Machine/BitByte.lean ====
section
/-!
DEFINITION. Bit detection, byte assembly and frame and parity validation (43_bit_byte.md): MSGEMIT, DELIM_OPEN,
DELIM_CLOSE, PAYLOAD, DISCARD, BYTEDONE, BITAPPEND, IFBIT, BITDET, GAPEND, each before the ones that route to it.
-/

namespace Sys2Proof.Machine

/-- The state after the current message has been emitted (R128): the event, the next number, an empty buffer. After message
2^32-1 no next number fits `seq`, which then holds a free value (assumption 9). -/
def emitMsg (s : State) : State :=
  { s with
    out := s.out ++ [⟨s.seq, s.msgBuf⟩]
    seq := if s.seq.toNat = Config.counterMax then Config.seqBeyond s.out.length else s.seq + 1
    seqSpent := decide (s.seq.toNat = Config.counterMax)
    msgBuf := [] }

/-- MSGEMIT (R128). A session that would emit message 2^32 is outside the spec and is refused (I27). -/
def execMsgemit (s : State) : Result :=
  if s.seqSpent then .refused .sequenceOverflow else .next (emitMsg s)

/-- DELIM_OPEN (R122): the stream is opened. -/
def execDelimOpen (s : State) : Result :=
  .next { s with streamOpened := true }

/-- DELIM_CLOSE (R123): emit the message, then Interframe. -/
def execDelimClose (s : State) : Result :=
  andThen (execMsgemit s) fun t => .next { t with decoderState := .interframe }

/-- Appends a character where capacity remains, else drops it (R127). -/
def appendChar (ch : Byte) (s : State) : State :=
  if s.msgBuf.length < s.cfg.num .maxMsg then { s with msgBuf := s.msgBuf ++ [ch] } else s

/-- PAYLOAD (R124): validate the byte and append its character. -/
def execPayload (s : State) : Result :=
  .next (appendChar (payloadChar s.cfg s.work.byte s.work.par s.work.rxp) s)

/-- DISCARD (R130): the byte is dropped. -/
def execDiscard (s : State) : Result := .next s

/-- The full buffer decoded into the latches, and the buffer cleared (R120). -/
def decodeByte (s : State) : State :=
  { s with
    bb := []
    work.byte := byteOf s.bb
    work.par := parityOf s.bb
    work.rxp := receivedParity s.cfg s.bb }

/-- BYTEDONE (R120): decode the buffer, clear it, and route the byte: the delimiter test first. -/
def execBytedone (s : State) : Result :=
  let t := decodeByte s
  if t.work.byte = Config.delimiter then
    if t.streamOpened then execDelimClose t else execDelimOpen t
  else if t.streamOpened then execPayload t
  else execDiscard t

/-- The detected bit stored in the next slot (R118). -/
def storeBit (s : State) : State := { s with bb := s.bb ++ [s.work.bit] }

/-- BITAPPEND (R118): store the bit; a full buffer is decoded at once. -/
def execBitappend (s : State) : Result :=
  let t := storeBit s
  if t.bbCnt = t.cfg.num .w then execBytedone t else .next t

/-- IFBIT (R129): a 0 returns to Frame and is not stored; a 1 changes nothing. -/
def execIfbit (s : State) : Result :=
  if s.work.bit then .next s else .next { s with decoderState := .frame }

/-- Where a detected bit goes (R114): Frame appends it, otherwise it is an Interframe bit. -/
def routeBit (s : State) : Result :=
  match s.decoderState with
  | .frame => execBitappend s
  | .interframe => execIfbit s
  | .bitrateDetect => execIfbit s

/-- BITDET (R114 to R116): an edge, else a timeout, yields a bit; the edge has priority. -/
def execBitdet (s : State) : Result :=
  if edge s then routeBit { s with nSame := 0, work.bit := s.work.d }
  else if timeout s then routeBit { s with nSame := s.tolerance, work.bit := s.work.d }
  else .next s

/-- GAPEND (R117): close the gap step. -/
def execGapend (s : State) : Result :=
  .next { s with prevD := s.work.d, nSame := toWord (sat32 (s.nSame.toNat + 1)) }

end Sys2Proof.Machine
end

