-- ==== Sys2Proof/Machine/Bitrate.lean ====
section
/-!
DEFINITION. The bitrate estimator (42_bitrate.md): BRFIX and BRAUTO.
-/

namespace Sys2Proof.Machine

/-- The bitrate and its tolerance are settled and detection is left (R105, R107, R110). -/
def adoptBitrate (b : Nat) (s : State) : State :=
  { s with bitrate := toWord b, tolerance := toWord (tol s.cfg b), decoderState := .frame }

/-- BRFIX (R105): adopt the configured bit length. -/
def execBrfix (s : State) : Result :=
  .next (adoptBitrate (s.cfg.num .fixedBitrate) s)

/-- The rounded mean of est[DET_LO] to est[DET_HI-1] (R108). -/
def windowMean (c : ConfigRegs) (est : List Word) : Nat :=
  let lo := c.num .detLo
  let n := c.num .detHi - lo
  roundHalfUp (((List.range n).map fun k => interval est (lo + k)).sum) n

/-- The interval since the last change is recorded and the counter cleared (R107). -/
def recordInterval (s : State) : State :=
  { s with est := s.est ++ [s.nSame], nSame := 0 }

/-- BRAUTO (R107): at a change of d, record the interval; when the array is full, settle the bitrate. -/
def execBrauto (s : State) : Result :=
  if edge s then
    let t := recordInterval s
    if t.estCnt = t.cfg.num .stopCount then .next (adoptBitrate (windowMean t.cfg t.est) t)
    else .next t
  else .next s

end Sys2Proof.Machine
end

