-- ==== Sys2Proof/Machine/SignalPath.lean ====
section
/-!
DEFINITION. The signal path (41_signal_path.md): AVG, GAPDET, DEBOUNCE. They run in every gap step of every decoder state
and never stop.
-/

namespace Sys2Proof.Machine

/-- The sum of one averaging window: `len` samples from index `i` (R93). -/
def windowSum (block : List Byte) (i len : Nat) : Nat := ((memRead block i len).map BitVec.toNat).sum

/-- The averages of gap `g`: window w = g*A + a covers the samples w*V to w*V + V-1 (R93, R94). -/
def gapAverages (c : ConfigRegs) (block : List Byte) (g : Nat) : List Nat :=
  (List.range (c.num .a)).map fun a => windowSum block ((g * c.num .a + a) * c.num .v) (c.num .v)

/-- AVG (R93): the averages of gap g of the block in progress. -/
def execAvg (s : State) : Result :=
  .next { s with work.avg := gapAverages s.cfg s.work.block s.work.gap }

/-- GAPDET (R95): the sub-bit of the averages. -/
def execGapdet (s : State) : Result :=
  .next { s with work.sub := subBit s.work.avg (s.cfg.num .thresh) }

/-- DEBOUNCE (R97): shift the sub-bit in, correct a bounce, deliver the oldest slot. -/
def execDebounce (s : State) : Result :=
  .next { s with
    db := debounced s.db s.work.sub
    work.d := oldest (debounced s.db s.work.sub) }

end Sys2Proof.Machine
end

