-- ==== Sys2Proof/Machine/Block.lean ====
section
/-!
DEFINITION. The gap sequencer (R89, R90) and the BLOCK transaction (R84 to R86).
-/

namespace Sys2Proof.Machine

/-- The decoder's stage of a gap step; `decoder_state` is read once, here (R90). -/
def decodeStageOfGap (s : State) : Result :=
  match s.decoderState with
  | .bitrateDetect => if s.cfg.num .autoEn = 0 then execBrfix s else execBrauto s
  | .frame => execBitdet s
  | .interframe => execBitdet s

/-- One gap step (R90): AVG, GAPDET, DEBOUNCE, the decoder's stage, GAPEND. -/
def gapStep (g : Nat) (s : State) : Result :=
  andThen (execAvg { s with work.gap := g }) fun s1 =>
  andThen (execGapdet s1) fun s2 =>
  andThen (execDebounce s2) fun s3 =>
  andThen (decodeStageOfGap s3) fun s4 =>
  execGapend s4

/-- The gap steps g, g+1, ..., g+n-1, in that order (R89). -/
def runGaps : Nat → Nat → State → Result
  | 0, _, s => .next s
  | n + 1, g, s => andThen (gapStep g s) (runGaps n (g + 1))

/-- All gap steps of a block of the right length; the block is not kept after them (R38, R84). -/
def processBlock (samples : List Byte) (s : State) : Result :=
  andThen (runGaps (s.cfg.num .g) 0 { s with work := { Work.idle with block := samples } })
    fun t => .next { t with work := Work.idle }

/-- BLOCK (R84 to R86): ignored while Faulted, illegal while Halted; a long block is illegal, a short one ends the session,
and one of N samples runs its G gap steps. -/
def execBlock (samples : List Byte) (s : State) : Result :=
  match s.runState with
  | .faulted => .next s
  | .halted => .next (raiseFault .illegalTransaction s)
  | .running =>
    if s.cfg.blockLength < samples.length then .next (raiseFault .illegalTransaction s)
    else if samples.length < s.cfg.blockLength then .next (terminate .acqError s)
    else processBlock samples s

end Sys2Proof.Machine
end

