-- ==== Sys2Proof/Machine/Transactions.lean ====
section
/-!
DEFINITION. The host transactions RESET, CFGW, END and CANCEL (40_host_transactions.md); BLOCK stands in Block.lean.
-/

namespace Sys2Proof.Machine

/-- RESET (R79): with a legal configuration a new session from any `run_state`, else CONFIG_ERROR. -/
def execReset (s : State) : Result :=
  if configLegal s.cfg then .next (startSession s) else .next (raiseFault .configError s)

/-- CFGW (R81): a reserved index is illegal; so is a write while a session runs; else the register is written. -/
def execCfgw (idx : BitVec 8) (value : Word) (s : State) : Result :=
  match CfgReg.ofIndex idx with
  | none => .next (illegalTransaction s)
  | some r =>
    match s.runState with
    | .running => .next (raiseFault .illegalTransaction s)
    | .halted => .next { s with cfg := s.cfg.write value r }
    | .faulted => .next { s with cfg := s.cfg.write value r }

/-- END (R87). -/
def execEnd (reason : Bool) (s : State) : Result :=
  match s.runState with
  | .faulted => .next s
  | .halted => .next (raiseFault .illegalTransaction s)
  | .running => .next (terminate (if reason then .acqError else .endOfStream) s)

/-- CANCEL (R88). -/
def execCancel (s : State) : Result :=
  match s.runState with
  | .faulted => .next s
  | .halted => .next s
  | .running => .next (terminate .cancelled s)

end Sys2Proof.Machine
end

