-- ==== Sys2Proof/Machine/Dispatch.lean ====
section
/-!
DEFINITION. The dispatch: one arm for each operation of the core, each one direct call of its meaning.
-/

namespace Sys2Proof.Machine

def exec (i : Instr) (s : State) : Host.Outcome State Fault Refusal :=
  match i with
  | .reset => Sys2Proof.Machine.execReset s
  | .cfgw idx value => Sys2Proof.Machine.execCfgw idx value s
  | .block samples => Sys2Proof.Machine.execBlock samples s
  | .endSession reason => Sys2Proof.Machine.execEnd reason s
  | .cancel => Sys2Proof.Machine.execCancel s
  | .avg => Sys2Proof.Machine.execAvg s
  | .gapdet => Sys2Proof.Machine.execGapdet s
  | .debounce => Sys2Proof.Machine.execDebounce s
  | .brfix => Sys2Proof.Machine.execBrfix s
  | .brauto => Sys2Proof.Machine.execBrauto s
  | .bitdet => Sys2Proof.Machine.execBitdet s
  | .gapend => Sys2Proof.Machine.execGapend s
  | .bitappend => Sys2Proof.Machine.execBitappend s
  | .bytedone => Sys2Proof.Machine.execBytedone s
  | .delimOpen => Sys2Proof.Machine.execDelimOpen s
  | .delimClose => Sys2Proof.Machine.execDelimClose s
  | .payload => Sys2Proof.Machine.execPayload s
  | .discard => Sys2Proof.Machine.execDiscard s
  | .msgemit => Sys2Proof.Machine.execMsgemit s
  | .ifbit => Sys2Proof.Machine.execIfbit s

end Sys2Proof.Machine
end

