-- ==== Sys2Proof/Machine/Fetch.lean ====
section
/-!
DEFINITION. What a step does next: a stage code in the stage port, else the next transaction of the host's word stream,
else nothing (R55, R61, R70, R72, R151).
-/

namespace Sys2Proof.Machine

/-- The next transaction of the host's word stream. An illegal one is a fault of the spec or ignored (R72); with no complete
transaction the core is idle and every register keeps its value (R151). -/
def runTransaction (s : State) : Result :=
  match decode s.rx with
  | .ok i rest => exec i { s with rx := rest }
  | .illegal _ rest => .next (illegalTransaction { s with rx := rest })
  | .waiting => .next s

/-- A stage code taken from the stage port (R70): performed while a session runs; outside a session no stage operation runs
(R42, R43), and a code that names nothing does nothing (assumption 3). -/
def runStageCode (code : Byte) (s : State) : Result :=
  match s.runState with
  | .halted => .next s
  | .faulted => .next s
  | .running =>
    match decodeStage code with
    | some i => exec i s
    | none => .next s

end Sys2Proof.Machine
end

