-- ==== Sys2Proof/Machine/Step.lean ====
section
/-!
DEFINITION. One step of the machine: one host transaction, whole (R3, R51), or one stage operation by itself where the
stage port holds its code (assumption 3).
-/

namespace Sys2Proof.Machine

/-- One step. -/
def step (s : State) : Host.Outcome State Fault Refusal :=
  match s.stagePort with
  | some code => runStageCode code { s with stagePort := none }
  | none => runTransaction s

/-- The state in which the very next step runs the instruction whose bits are `w` (assumption 4): a transaction's words at
the front of the host's stream, or a stage code in the stage port with a session running. -/
def State.withFetchWord (s : State) (nbits w : Nat) : State :=
  if nbits ≤ 8 then { s with stagePort := some (BitVec.ofNat 8 w), runState := .running }
  else { s with stagePort := none, rx := tableWords nbits w ++ s.rx }

end Sys2Proof.Machine
end

