-- ==== Sys2Proof/Machine/View.lean ====
section
/-!
DEFINITION. What the host can see (R40, R77, R78, R165): the codes of the lifecycle registers and of the decoder state, the
status view, the message output record, and the observation of a run.
-/

namespace Sys2Proof.Machine

/-- The code of `run_state` (R22). -/
def RunState.code : RunState → BitVec 2
  | .halted => 0
  | .running => 1
  | .faulted => 2

/-- The code of `fault_code` (R23). -/
def FaultCode.code : FaultCode → BitVec 4
  | .none => 0
  | .configError => 1
  | .illegalTransaction => 2

/-- The code of `term_reason` (R24). -/
def TermReason.code : TermReason → BitVec 2
  | .none => 0
  | .endOfStream => 1
  | .acqError => 2
  | .cancelled => 3

/-- The code of `decoder_state` (R25). -/
def DecoderState.code : DecoderState → BitVec 2
  | .bitrateDetect => 0
  | .frame => 1
  | .interframe => 2

/-- The values a host may read between two transactions (R40, R78); an UNSET configuration register is absent.
DESIGN CHOICE (assumption 21): `bbCnt` and `estCnt` are natural numbers. R78 gives a counter "the width given there", and R33,
R34 and R40 give these two a range and no width. -/
structure StatusView where
  runState : BitVec 2
  faultCode : BitVec 4
  termReason : BitVec 2
  decoderState : BitVec 2
  bitrate : Word
  tolerance : Word
  seq : Word
  streamOpened : Bool
  msgLen : BitVec 16
  bbCnt : Nat
  nSame : Word
  estCnt : Nat
  prevD : Bool
  cfg : ConfigRegs
  deriving DecidableEq, Repr

/-- The status view of a state (R40). -/
def statusView (s : State) : StatusView where
  runState := s.runState.code
  faultCode := s.faultCode.code
  termReason := s.termReason.code
  decoderState := s.decoderState.code
  bitrate := s.bitrate
  tolerance := s.tolerance
  seq := s.seq
  streamOpened := s.streamOpened
  msgLen := s.msgLen
  bbCnt := s.bbCnt
  nSame := s.nSame
  estCnt := s.estCnt
  prevD := s.prevD
  cfg := s.cfg

/-- The output record of a message (R77): its number, its length in bits [15:0], its characters packed as in R47. -/
def outputRecord (m : Msg) : List Word :=
  m.seq :: ((0#16 : BitVec 16) ++ BitVec.ofNat 16 m.text.length) :: packBytes m.text

/-- The messages emitted in the current run, or in the last one once it has ended (R165). -/
def runOutput (s : State) : List Msg := s.out.drop s.runStart

/-- The observation of a run (R165): its messages in order, and the two registers that say how it ended. -/
structure Observation where
  messages : List Msg
  termReason : TermReason
  faultCode : FaultCode
  deriving DecidableEq, Repr

/-- The observation of the current or last run (R165). -/
def observation (s : State) : Observation := ⟨runOutput s, s.termReason, s.faultCode⟩

end Sys2Proof.Machine
end

