-- ==== Sys2Proof/Safety.lean ====
section
/-!
DEFINITION. What the claims are stated in: the invariant of a session and of the machine (R44, R132, R167), and the runs of
one stage over many gap steps that the timing rules speak of (R99 to R101, R131).
-/

namespace Sys2Proof.Machine

/-- What holds between two transactions while a session runs (R44, R80, R132). -/
structure SessionInv (s : State) : Prop where
  /-- The configuration passed R80 and cannot have changed since (R30). -/
  legal : configLegal s.cfg = true
  /-- "the debounce register always holds the fixed configured depth" (R44). -/
  depth : s.db.length = s.cfg.debounceLength
  /-- `bb_cnt` < W (R44). -/
  slots : s.bbCnt < s.cfg.num .w
  /-- `msg_len` <= MAX_MSG (R44). -/
  chars : s.msgBuf.length ≤ s.cfg.num .maxMsg
  /-- Only printable characters are appended (R126). -/
  text : ∀ ch ∈ s.msgBuf, printable ch = true
  /-- `est_cnt` < STOP_COUNT while the bitrate is being detected (R44). -/
  filling : s.decoderState = .bitrateDetect → s.cfg.num .autoEn = 1 → s.estCnt < s.cfg.num .stopCount
  /-- With a fixed bitrate detection ends in gap 0, so before it nothing has been counted (R105). -/
  fresh : s.decoderState = .bitrateDetect → s.cfg.num .autoEn = 0 → s.nSame = 0
  /-- `n_same` <= `bitrate` + `tolerance` + 1 in Frame and Interframe (R44). -/
  counted : s.decoderState ≠ .bitrateDetect → s.nSame.toNat ≤ s.bitrate.toNat + s.tolerance.toNat + 1
  /-- Before the bitrate is known nothing has been detected (R113). -/
  undetected : s.decoderState = .bitrateDetect → s.bb = [] ∧ s.streamOpened = false
  /-- PAYLOAD runs only once the stream is opened (R122). -/
  unopened : s.streamOpened = false → s.msgBuf = []
  /-- Interframe is entered by a closing delimiter, right after a clear (R129). -/
  between : s.decoderState = .interframe → s.bb = [] ∧ s.streamOpened = true
  /-- A session that runs has not been terminated (R24). -/
  unterminated : s.termReason = .none

/-- What holds between two transactions in every `run_state`. -/
structure MachineInv (s : State) : Prop where
  session : s.runState = .running → SessionInv s
  /-- The fault code is there exactly while Faulted (R23, R138). -/
  faultCode : s.faultCode = .none ↔ s.runState ≠ .faulted
  /-- The fault that holds is the last of the history (R43, R140). -/
  history : s.runState = .faulted → s.faults.getLast? = some s.faultCode
  /-- The messages of the run are part of the messages emitted (R165). -/
  run : s.runStart ≤ s.out.length
  /-- "sequence numbers of one session are 1, 2, 3, ... with no gap" (R132). -/
  numbers : (runOutput s).map (fun m => m.seq.toNat) = List.range' 1 (runOutput s).length
  /-- The number the next message carries, while there is one (R36). -/
  next : s.seqSpent = false → s.seq.toNat = (runOutput s).length + 1
  /-- Every text is printable and no longer than the longest legal MAX_MSG (R132). -/
  texts : ∀ m ∈ s.out, (∀ ch ∈ m.text, printable ch = true) ∧ m.text.length ≤ 65535
  /-- No stage operation is under way between two transactions (R39; assumption 3). -/
  port : s.stagePort = none
  /-- The gap-step latches are idle between two transactions (R37, R39; assumption 3). -/
  idle : s.work = Work.idle

/-- The debounce register after the sub-bits `xs` have entered it in order (R97). -/
def feed (db : List Bool) (xs : List Bool) : List Bool := xs.foldl debounced db

/-- The debounced sub-bits that the sub-bits `xs` deliver, in order (R97). -/
def delivered (db : List Bool) : List Bool → List Bool
  | [] => []
  | x :: xs => oldest (debounced db x) :: delivered (debounced db x) xs

/-- BITDET and GAPEND of `n` gap steps whose debounced sub-bit is held as it is in the latch (R90, R131). -/
def heldSteps : Nat → State → Result
  | 0, s => .next s
  | n + 1, s => andThen (execBitdet s) fun t => andThen (execGapend t) (heldSteps n)

end Sys2Proof.Machine
end

