-- ==== Sys2Proof/Certificates/Slice0/Obligations.lean ====
section
/-!
DEFINITION. The statements for the provers, from the spec's numbered rules.
-/

open Sys2Proof Sys2Proof.Machine

/-! ## Encoding (30_encoding.md) -/

/-- R61 to R70: the encoder and the decoder agree on every well-formed operation with every operand; a transaction decodes
the same whatever words follow it. -/
def Obligations.DecodeEncodeAgree : Prop :=
  (∀ i : Instr, i.wf = true → decodeEncoding (encode i) = some i) ∧
  (∀ (i : Instr) (rest : List Word), i.wf = true → i.isTransaction = true →
    decode (hostWords i ++ rest) = .ok i rest)

/-- Words of 95_test_vectors.md section 2.9 (V70 to V80), written out there, decode as it says. -/
def Obligations.SpecWordsDecode : Prop :=
  decode [0x00000000#32] = .ok .reset [] ∧
  decode [0x00000401#32, 0x00000002#32] = .ok (.cfgw 4 2) [] ∧
  decode [0x00000F01#32, 0x00000010#32] = .ok (.cfgw 15 16) [] ∧
  decode [0x00000802#32, 0x00000000#32, 0xFFFFFFFF#32] = .ok (.block [0, 0, 0, 0, 255, 255, 255, 255]) [] ∧
  decode [0x00000302#32, 0x00030201#32] = .ok (.block [1, 2, 3]) [] ∧
  decode [0x00000003#32] = .ok (.endSession false) [] ∧
  decode [0x00000013#32] = .ok (.endSession true) [] ∧
  decode [0x00000004#32] = .ok .cancel [] ∧
  decode [0x00000005#32] = .illegal .reservedOp [] ∧
  decode [0x00000010#32] = .illegal .mustBeZero [] ∧
  decode [0x00001001#32, 0x00000000#32] = .illegal .reservedIndex []

/-- R71: exactly these headers pass the checks: RESET with every other bit 0; CFGW with bits [31:16] and [7:4] 0 and IDX
below 16; BLOCK with bits [7:4] 0; END with bits [31:8] and [7:5] 0; CANCEL with every other bit 0. -/
def Obligations.LegalHeadersExactly : Prop :=
  ∀ (h : Word) (rest : List Word),
    (∃ why r, decode (h :: rest) = .illegal why r) ↔
      ¬ (h.toNat = 0 ∨ (h.toNat % 256 = 1 ∧ h.toNat < 4096) ∨ h.toNat % 256 = 2 ∨ h.toNat = 3 ∨ h.toNat = 19 ∨
        h.toNat = 4)

/-- R72: an illegal header raises ILLEGAL_TRANSACTION unless the core is Faulted, in which case it is ignored. That the
words of the transaction's length that are there go with it is the model's reading of R69 (assumption 2). -/
def Obligations.IllegalEncodingFaults : Prop :=
  ∀ (s : State) (h : Word) (rest r : List Word) (why : Illegal),
    s.stagePort = none → s.rx = h :: rest → decode (h :: rest) = .illegal why r →
    r = rest.drop (if h.toNat % 16 = 1 then 1 else if h.toNat % 16 = 2 then (h.toNat / 256 + 3) / 4 else 0) ∧
    (s.runState = .faulted → step s = .next { s with rx := r }) ∧
    (s.runState ≠ .faulted → step s = .next { s with
      rx := r, faultCode := .illegalTransaction, runState := .faulted,
      faults := s.faults ++ [.illegalTransaction] })

/-- R68: IDX, LEN and REASON are read from the header, VALUE is the whole payload word, and sample i is byte (i mod 4) of
payload word (i div 4). -/
def Obligations.OperandsFromWords : Prop :=
  (∀ (h v : Word) (rest : List Word), h.toNat % 256 = 1 → h.toNat < 4096 →
    decode (h :: v :: rest) = .ok (.cfgw (BitVec.ofNat 8 (h.toNat / 256)) v) rest) ∧
  (∀ (h : Word) (rest : List Word), h.toNat = 3 ∨ h.toNat = 19 →
    decode (h :: rest) = .ok (.endSession (decide (h.toNat / 16 = 1))) rest) ∧
  (∀ (h : Word) (payload rest : List Word), h.toNat % 256 = 2 → payload.length = (h.toNat / 256 + 3) / 4 →
    ∃ xs : List Byte, decode (h :: (payload ++ rest)) = .ok (.block xs) rest ∧ xs.length = h.toNat / 256 ∧
      ∀ i, i < h.toNat / 256 →
        (xs.getD i 0).toNat = (payload.getD (i / 4) 0).toNat / 2 ^ (8 * (i % 4)) % 256)

/-- R70: the fifteen stage codes name their operations, and no other code names anything. -/
def Obligations.StageCodesExactly : Prop :=
  ∀ c : Byte, decodeStage c =
    List.lookup c [(0x10#8, Instr.avg), (0x11#8, .gapdet), (0x12#8, .debounce), (0x20#8, .brfix), (0x21#8, .brauto),
      (0x30#8, .bitdet), (0x31#8, .gapend), (0x32#8, .bitappend), (0x33#8, .bytedone), (0x34#8, .delimOpen),
      (0x35#8, .delimClose), (0x36#8, .payload), (0x37#8, .discard), (0x38#8, .msgemit), (0x39#8, .ifbit)]

/-- R77, R47: an output record is the sequence number, the length, and then ceil(n/4) words whose byte (j mod 4) of word
(j div 4) is character j; the unused high bytes of the last word are 0. -/
def Obligations.OutputRecordPacksText : Prop :=
  ∀ m : Msg, m.text.length < 65536 →
    ∃ words : List Word, outputRecord m = m.seq :: BitVec.ofNat 32 m.text.length :: words ∧
      words.length = (m.text.length + 3) / 4 ∧
      (∀ j, j < m.text.length →
        (words.getD (j / 4) 0).toNat / 2 ^ (8 * (j % 4)) % 256 = (m.text.getD j 0).toNat) ∧
      ∀ j, m.text.length ≤ j → j < 4 * words.length →
        (words.getD (j / 4) 0).toNat / 2 ^ (8 * (j % 4)) % 256 = 0

/-! ## The step -/

/-- A step runs the transaction at the front of the host's words, on the state without those words (R55, R61). -/
def Obligations.StepRunsTransaction : Prop :=
  ∀ (s : State) (i : Instr) (rest : List Word), s.stagePort = none → decode s.rx = .ok i rest →
    step s = exec i { s with rx := rest }

/-- A stage code in the stage port runs its operation while a session runs; outside a session no stage operation runs (R42,
R43). The stage port is the model's (assumption 3). -/
def Obligations.StepRunsStageCode : Prop :=
  (∀ (s : State) (code : Byte) (i : Instr), s.stagePort = some code → s.runState = .running →
    decodeStage code = some i → step s = exec i { s with stagePort := none }) ∧
  (∀ (s : State) (code : Byte), s.stagePort = some code → s.runState ≠ .running →
    step s = .next { s with stagePort := none })

/-- R151: between transactions the core is idle and every register keeps its value: with no words there, with a legal BLOCK
header short of its payload, and with a legal CFGW header short of its VALUE. That the core waits for the words of a transaction
that is not all there is the model's choice (assumption 2). -/
def Obligations.IdleStepChangesNothing : Prop :=
  ∀ s : State, s.stagePort = none →
    (s.rx = [] ∨
      (∃ (h : Word) (rest : List Word), s.rx = h :: rest ∧ h.toNat % 256 = 2 ∧
        rest.length < (h.toNat / 256 + 3) / 4) ∨
      ∃ h : Word, s.rx = [h] ∧ h.toNat % 256 = 1 ∧ h.toNat < 4096) →
    step s = .next s

/-! ## Power-on and RESET -/

/-- R41, R29: the power-on state. The debounce register has D+2 = 12 slots. -/
def Obligations.PowerOnValues : Prop :=
  State.reset.runState = .halted ∧ State.reset.faultCode = .none ∧ State.reset.termReason = .none ∧
  State.reset.decoderState = .bitrateDetect ∧ State.reset.prevD = false ∧ State.reset.streamOpened = false ∧
  State.reset.nSame = 0 ∧ State.reset.bitrate = 0 ∧ State.reset.tolerance = 0 ∧
  State.reset.db = List.replicate 12 false ∧ State.reset.estCnt = 0 ∧ State.reset.bbCnt = 0 ∧
  State.reset.msgLen = 0 ∧ State.reset.seq = 1 ∧
  (∀ r : CfgReg, State.reset.cfg.read r =
    if r = .d then some 10 else if r = .w then some 12 else if r = .tolNum then some 1
    else if r = .tolDen then some 2 else none)

/-- R79: RESET in every `run_state`: with a legal configuration every session register to its reset value, Running, the
configuration unchanged; otherwise CONFIG_ERROR and nothing else. `seqSpent`, `runStart` and `work` are the model's own. -/
def Obligations.ResetStartsSession : Prop :=
  ∀ s : State,
    (configLegal s.cfg = true → exec .reset s = .next { s with
      runState := .running, faultCode := .none, termReason := .none, decoderState := .bitrateDetect,
      prevD := false, streamOpened := false, nSame := 0, bitrate := 0, tolerance := 0,
      db := List.replicate ((s.cfg.value .d).toNat + 2) false, est := [], bb := [], msgBuf := [], seq := 1,
      seqSpent := false, runStart := s.out.length, work := Work.idle }) ∧
    (configLegal s.cfg = false → exec .reset s = .next { s with
      faultCode := .configError, runState := .faulted, faults := s.faults ++ [.configError] })

/-- R80: ConfigLegal, clause by clause, on the register contents. -/
def Obligations.ConfigLegalMeansTable : Prop :=
  ∀ c : ConfigRegs, configLegal c = true ↔
    ∃ g a v d w pe po ae tn td mm : Word,
      c.g = some g ∧ c.a = some a ∧ c.v = some v ∧ c.d = some d ∧ c.w = some w ∧ c.parityEn = some pe ∧
      c.parityOdd = some po ∧ c.autoEn = some ae ∧ c.tolNum = some tn ∧ c.tolDen = some td ∧ c.maxMsg = some mm ∧
      1 ≤ g.toNat ∧ 1 ≤ a.toNat ∧ 1 ≤ v.toNat ∧ g.toNat * a.toNat * v.toNat ≤ 2 ^ 24 - 1 ∧
      d.toNat ≤ 1022 ∧
      (pe = 0 ∨ pe = 1) ∧ (po = 0 ∨ po = 1) ∧ (ae = 0 ∨ ae = 1) ∧
      8 ≤ w.toNat ∧ w.toNat ≤ 32 ∧ (pe = 1 → 9 ≤ w.toNat) ∧
      tn.toNat ≤ 65535 ∧ 1 ≤ td.toNat ∧ td.toNat ≤ 65535 ∧ tn.toNat ≤ td.toNat ∧
      mm.toNat ≤ 65535 ∧
      (ae = 0 → ∃ fb : Word, c.fixedBitrate = some fb ∧ 1 ≤ fb.toNat) ∧
      (ae = 1 → ∃ sc lo hi : Word, c.stopCount = some sc ∧ c.detLo = some lo ∧ c.detHi = some hi ∧
        1 ≤ sc.toNat ∧ sc.toNat ≤ 1024 ∧ lo.toNat < hi.toNat ∧ hi.toNat ≤ sc.toNat)

/-! ## CFGW, END, CANCEL -/

/-- R81: a reserved index is ignored while Faulted and illegal otherwise; a write while Running is illegal; otherwise exactly
the register IDX takes VALUE, verbatim. -/
def Obligations.CfgwWritesOneRegister : Prop :=
  ∀ (idx : BitVec 8) (value : Word) (s : State),
    (16 ≤ idx.toNat → s.runState = .faulted → exec (.cfgw idx value) s = .next s) ∧
    ((16 ≤ idx.toNat ∧ s.runState ≠ .faulted) ∨ (idx.toNat < 16 ∧ s.runState = .running) →
      exec (.cfgw idx value) s = .next { s with
        faultCode := .illegalTransaction, runState := .faulted, faults := s.faults ++ [.illegalTransaction] }) ∧
    (idx.toNat < 16 → s.runState ≠ .running →
      ∃ c : ConfigRegs, exec (.cfgw idx value) s = .next { s with cfg := c } ∧
        ∀ r : CfgReg, c.read r = if r.index = idx.toNat then some value else s.cfg.read r)

/-- R87: END while Running terminates with END_OF_STREAM or ACQ_ERROR, the unfinished message discarded and every other
register kept (R42, R141); illegal while Halted; ignored while Faulted. -/
def Obligations.EndTerminates : Prop :=
  ∀ (reason : Bool) (s : State),
    (s.runState = .running → exec (.endSession reason) s = .next { s with
      msgBuf := [], termReason := if reason = true then .acqError else .endOfStream, runState := .halted }) ∧
    (s.runState = .halted → exec (.endSession reason) s = .next { s with
      faultCode := .illegalTransaction, runState := .faulted, faults := s.faults ++ [.illegalTransaction] }) ∧
    (s.runState = .faulted → exec (.endSession reason) s = .next s)

/-- R88: CANCEL while Running terminates with CANCELLED; otherwise it has no effect. -/
def Obligations.CancelTerminates : Prop :=
  ∀ s : State,
    (s.runState = .running → exec .cancel s = .next { s with
      msgBuf := [], termReason := .cancelled, runState := .halted }) ∧
    (s.runState ≠ .running → exec .cancel s = .next s)

/-! ## BLOCK -/

/-- R84 to R86: the outcomes of BLOCK in which no gap step runs: ignored while Faulted, illegal while Halted, illegal when
longer than N = G*A*V, and the session ended with ACQ_ERROR when shorter. -/
def Obligations.BlockOfWrongLength : Prop :=
  ∀ (xs : List Byte) (s : State),
    (s.runState = .faulted → exec (.block xs) s = .next s) ∧
    (s.runState = .halted ∨ (s.runState = .running ∧ s.cfg.num .g * s.cfg.num .a * s.cfg.num .v < xs.length) →
      exec (.block xs) s = .next { s with
        faultCode := .illegalTransaction, runState := .faulted, faults := s.faults ++ [.illegalTransaction] }) ∧
    (s.runState = .running → xs.length < s.cfg.num .g * s.cfg.num .a * s.cfg.num .v →
      exec (.block xs) s = .next { s with msgBuf := [], termReason := .acqError, runState := .halted })

/-- R84, R51: a BLOCK of N samples in a running session completes as long as the sequence numbers last: its G gap steps run in
order from gap 0 on the block, it emits at most G messages, appended to those before (that events stay in `out` is the model's
choice, assumption 11), and it leaves the lifecycle registers, the configuration, the fault history and the host's words as they
were. R110: once the bitrate is settled, it and the tolerance are kept, and detection is not entered again. -/
def Obligations.BlockRunsItsGaps : Prop :=
  ∀ (xs : List Byte) (s : State), s.runState = .running → SessionInv s → s.seqSpent = false →
    s.seq.toNat + s.cfg.num .g ≤ 2 ^ 32 → xs.length = s.cfg.num .g * s.cfg.num .a * s.cfg.num .v →
    ∃ t u : State, ∃ msgs : List Msg,
      runGaps (s.cfg.num .g) 0 { s with work := { Work.idle with block := xs } } = .next u ∧
      exec (.block xs) s = .next t ∧ t = { u with work := Work.idle } ∧
      t.out = s.out ++ msgs ∧ msgs.length ≤ s.cfg.num .g ∧
      t.runState = .running ∧ t.faultCode = s.faultCode ∧ t.termReason = s.termReason ∧ t.cfg = s.cfg ∧
      t.faults = s.faults ∧ t.rx = s.rx ∧ t.stagePort = s.stagePort ∧ t.runStart = s.runStart ∧ SessionInv t ∧
      (s.decoderState ≠ .bitrateDetect →
        t.decoderState ≠ .bitrateDetect ∧ t.bitrate = s.bitrate ∧ t.tolerance = s.tolerance)

/-- R90: a gap step is AVG, GAPDET, DEBOUNCE, then by the decoder state as it is there BRFIX, BRAUTO or BITDET, then GAPEND,
each on the state the one before it leaves. -/
def Obligations.GapStepRunsStages : Prop :=
  ∀ (g : Nat) (s s1 s2 s3 s4 : State),
    exec .avg { s with work.gap := g } = .next s1 → exec .gapdet s1 = .next s2 → exec .debounce s2 = .next s3 →
    exec (if s3.decoderState = .bitrateDetect then (if s3.cfg.num .autoEn = 0 then .brfix else .brauto) else .bitdet)
      s3 = .next s4 →
    gapStep g s = exec .gapend s4

/-- R55, R89: the gap steps of a block run in gap order, the first m before the other n. -/
def Obligations.GapsRunInOrder : Prop :=
  (∀ (g : Nat) (s : State), runGaps 1 g s = gapStep g s) ∧
  (∀ (m n g : Nat) (s : State), runGaps (m + n) g s = andThen (runGaps m g s) (runGaps n (g + m)))

/-- R91, R128: a gap step emits at most one message, and it carries the number and the characters held before the step (that
events stay in `out` is the model's choice, assumption 11). -/
def Obligations.GapStepEmitsAtMostOnce : Prop :=
  ∀ (g : Nat) (s t : State), gapStep g s = .next t →
    t.out = s.out ∨ t.out = s.out ++ [⟨s.seq, s.msgBuf⟩]

/-- R110: a gap step writes the bitrate and the tolerance only when it leaves detection, and never enters detection. -/
def Obligations.GapStepSettlesBitrateOnce : Prop :=
  ∀ (g : Nat) (s t : State), gapStep g s = .next t →
    (s.decoderState ≠ .bitrateDetect → t.decoderState ≠ .bitrateDetect) ∧
    (s.decoderState ≠ .bitrateDetect ∨ t.decoderState = .bitrateDetect →
      t.bitrate = s.bitrate ∧ t.tolerance = s.tolerance)

/-- R110: detection re-runs only after RESET: a step that dispatches no stage code and whose words are no RESET neither returns
to detection nor writes the bitrate or the tolerance. -/
def Obligations.DetectionRerunsOnlyAfterReset : Prop :=
  ∀ s t : State, s.stagePort = none → s.decoderState ≠ .bitrateDetect →
    (∀ rest, decode s.rx ≠ .ok .reset rest) → step s = .next t →
    t.decoderState ≠ .bitrateDetect ∧ t.bitrate = s.bitrate ∧ t.tolerance = s.tolerance

/-- R89, R94: a gap step reads only the samples its gap owns, g*A*V to (g+1)*A*V - 1: on blocks that agree there it does the
same to every register. -/
def Obligations.GapOwnsItsSamples : Prop :=
  ∀ (g : Nat) (s t : State) (xs ys : List Byte),
    (g + 1) * (s.cfg.num .a * s.cfg.num .v) ≤ xs.length → (g + 1) * (s.cfg.num .a * s.cfg.num .v) ≤ ys.length →
    (∀ i, g * (s.cfg.num .a * s.cfg.num .v) ≤ i → i < (g + 1) * (s.cfg.num .a * s.cfg.num .v) →
      xs.getD i 0 = ys.getD i 0) →
    gapStep g { s with work.block := xs } = .next t →
    gapStep g { s with work.block := ys } = .next { t with work.block := ys }

/-! ## Faults and whole-machine rules -/

/-- R43, R82: while Faulted every transaction but RESET and a legal CFGW is ignored, and the step that reads it changes
nothing but the host's words. -/
def Obligations.FaultedIgnores : Prop :=
  ∀ (i : Instr) (s : State), s.runState = .faulted → i.isTransaction = true → i ≠ .reset →
    (∀ idx value, i = .cfgw idx value → 16 ≤ idx.toNat) →
    exec i s = .next s ∧
    ∀ rest, s.stagePort = none → decode s.rx = .ok i rest → step s = .next { s with rx := rest }

/-- R138, R139: a transaction after which a fault has been raised left the state as it was, `fault_code` and `run_state`
replaced and the history longer by that code; no stage operation raises a fault. -/
def Obligations.FaultsArePrecise : Prop :=
  (∀ (i : Instr) (s t : State), i.isTransaction = true → exec i s = .next t → t.faults ≠ s.faults →
    (t.faultCode = .configError ∨ t.faultCode = .illegalTransaction) ∧
    t = { s with faultCode := t.faultCode, runState := .faulted, faults := s.faults ++ [t.faultCode] }) ∧
  (∀ (i : Instr) (s t : State), i.isTransaction = false → exec i s = .next t →
    t.runState = s.runState ∧ t.faultCode = s.faultCode ∧ t.faults = s.faults)

/-- R128, I27: nothing is refused but the message numbered 2^32: a refusal is a sequence overflow, and then message 2^32-1 of
the session is out already, or a BLOCK of a running session has gap steps enough to reach number 2^32. `seqSpent` is the
model's own mark (assumption 9). -/
def Obligations.OnlyOverflowRefuses : Prop :=
  ∀ (i : Instr) (s : State) (r : Refusal), exec i s = .refused r →
    r = .sequenceOverflow ∧
    (s.seqSpent = true ∨
      ∃ xs : List Byte, i = .block xs ∧ s.runState = .running ∧
        xs.length = s.cfg.num .g * s.cfg.num .a * s.cfg.num .v ∧ 2 ^ 32 < s.seq.toNat + s.cfg.num .g)

/-- R30, R58: no step taken while a session runs changes a configuration register. -/
def Obligations.ConfigConstantInSession : Prop :=
  ∀ s t : State, s.runState = .running → step s = .next t → t.cfg = s.cfg

/-- R43, R140: no step clears the fault history. That no step removes an emitted message from `out` is the model's choice
(assumption 11): the spec gives an event and no queue. -/
def Obligations.HistoryOnlyGrows : Prop :=
  ∀ s t : State, step s = .next t → s.faults <+: t.faults ∧ s.out <+: t.out

/-- R128, R141: no transaction but BLOCK emits a message; RESET and termination never do. -/
def Obligations.OnlyBlocksEmit : Prop :=
  ∀ (i : Instr) (s t : State), i.isTransaction = true → exec i s = .next t → t.out ≠ s.out →
    s.runState = .running ∧ ∃ xs, i = .block xs ∧ xs.length = s.cfg.num .g * s.cfg.num .a * s.cfg.num .v

/-- R152: the lifecycle table over `run_state`, for every transaction with a legal encoding. -/
def Obligations.LifecycleTable : Prop :=
  State.reset.runState = .halted ∧
  ∀ (i : Instr) (s t : State), i.isTransaction = true → i.wf = true → exec i s = .next t →
    t.runState =
      match i, s.runState with
      | .reset, _ => if configLegal s.cfg = true then .running else .faulted
      | .cfgw _ _, .running => .faulted
      | .cfgw _ _, r => r
      | .cancel, .running => .halted
      | .cancel, r => r
      | .endSession _, .running => .halted
      | .block xs, .running =>
        if s.cfg.num .g * s.cfg.num .a * s.cfg.num .v < xs.length then .faulted
        else if xs.length < s.cfg.num .g * s.cfg.num .a * s.cfg.num .v then .halted else .running
      | _, _ => .faulted

/-- R44, R132: every step from a state that meets the machine invariant leads to one that meets it. -/
def Obligations.StepKeepsMachineInv : Prop :=
  ∀ s t : State, MachineInv s → step s = .next t → MachineInv t

/-- The machine invariant holds at power-on. -/
def Obligations.PowerOnMeetsMachineInv : Prop := MachineInv State.reset

/-! ## Signal path (41_signal_path.md) -/

/-- R93, R94: AVG: average a of gap g is the sum of the V samples from index (g*A + a)*V, of a block that holds them all
(index order is R94's own reading); nothing else changes. -/
def Obligations.AvgSumsWindows : Prop :=
  ∀ s : State, (s.work.gap + 1) * (s.cfg.num .a * s.cfg.num .v) ≤ s.work.block.length →
    ∃ avg : List Nat, exec .avg s = .next { s with work.avg := avg } ∧ avg.length = s.cfg.num .a ∧
      ∀ a, a < s.cfg.num .a → avg.getD a 0 =
        ∑ v ∈ Finset.range (s.cfg.num .v),
          (s.work.block.getD ((s.work.gap * s.cfg.num .a + a) * s.cfg.num .v + v) 0).toNat

/-- R95: GAPDET: the sub-bit is 1 exactly when the sum of the absolute differences of adjacent averages is below THRESH;
nothing else changes. -/
def Obligations.GapdetThresholdsDifferences : Prop :=
  ∀ s : State, exec .gapdet s = .next { s with work.sub := decide (
    ∑ i ∈ Finset.range (s.work.avg.length - 1),
      |((s.work.avg.getD (i + 1) 0 : Nat) : Int) - ((s.work.avg.getD i 0 : Nat) : Int)|
        < ((s.cfg.num .thresh : Nat) : Int)) }

/-- R97: DEBOUNCE on a register of L >= 2 slots: where the entering sub-bit agrees with the slot that becomes the oldest,
every slot and d take it; otherwise the register is shifted and d is the slot that was db[L-2]. Nothing else changes. -/
def Obligations.DebounceShiftsAndCorrects : Prop :=
  ∀ s : State, 2 ≤ s.db.length →
    ∃ db : List Bool, ∃ d : Bool, exec .debounce s = .next { s with db := db, work.d := d } ∧
      db.length = s.db.length ∧ d = s.db.getD (s.db.length - 2) false ∧
      (s.work.sub = s.db.getD (s.db.length - 2) false → ∀ k, k < s.db.length → db.getD k false = s.work.sub) ∧
      (s.work.sub ≠ s.db.getD (s.db.length - 2) false → db.getD 0 false = s.work.sub ∧
        ∀ k, k + 1 < s.db.length → db.getD (k + 1) false = s.db.getD k false)

/-- R99: for D >= 1, a register of all c and one spike among c's deliver only c. -/
def Obligations.SpikeNeverDelivered : Prop :=
  ∀ (depth p q : Nat) (c : Bool), 1 ≤ depth →
    ∀ d ∈ delivered (List.replicate (depth + 2) c) (List.replicate p c ++ (!c) :: List.replicate q c), d = c

/-- R101, R100: where any two changes of the sub-bit sequence (the first one against the reset content 0) are at least D+1
apart, no correction happens: step t delivers the sub-bit entered at step t-D-1, and 0 before. -/
def Obligations.SustainedLevelsPass : Prop :=
  ∀ (depth : Nat) (x : Nat → Bool) (n : Nat),
    (∀ i j, i < j → (x i ≠ if i = 0 then false else x (i - 1)) → x j ≠ x (j - 1) → i + depth + 1 ≤ j) →
    delivered (List.replicate (depth + 2) false) ((List.range n).map x) =
      (List.range n).map fun t => if t ≤ depth then false else x (t - (depth + 1))

/-- R100, R158: the first D+1 debounced sub-bits of a session are 0, whatever enters. -/
def Obligations.WarmupDeliversZero : Prop :=
  ∀ (depth : Nat) (xs : List Bool),
    ∀ d ∈ (delivered (List.replicate (depth + 2) false) xs).take (depth + 1), d = false

/-! ## Bitrate estimator (42_bitrate.md) -/

/-- R105, R106: BRFIX under a legal configuration with AUTO_EN = 0: the bitrate is FIXED_BITRATE, the tolerance the rounded
product, at most the bitrate; the state becomes Frame and nothing else changes. -/
def Obligations.BrfixAdoptsConfigured : Prop :=
  ∀ s : State, configLegal s.cfg = true → s.cfg.num .autoEn = 0 →
    ∃ tl : Word, exec .brfix s = .next { s with
      bitrate := s.cfg.value .fixedBitrate, tolerance := tl, decoderState := .frame } ∧
      tl.toNat = (2 * (s.cfg.num .fixedBitrate * s.cfg.num .tolNum) + s.cfg.num .tolDen) / (2 * s.cfg.num .tolDen) ∧
      tl.toNat ≤ s.cfg.num .fixedBitrate

/-- R107, R108: BRAUTO under a legal configuration with AUTO_EN = 1 and room in the array: without a change nothing; at a
change n_same is recorded and cleared; at the change that fills the array the bitrate is the mean of the window rounded half
up, the tolerance its rounded product, and the state Frame. -/
def Obligations.BrautoRecordsIntervals : Prop :=
  ∀ s : State, configLegal s.cfg = true → s.cfg.num .autoEn = 1 → s.estCnt < s.cfg.num .stopCount →
    (s.work.d = s.prevD → exec .brauto s = .next s) ∧
    (s.work.d ≠ s.prevD → s.estCnt + 1 < s.cfg.num .stopCount →
      exec .brauto s = .next { s with est := s.est ++ [s.nSame], nSame := 0 }) ∧
    (s.work.d ≠ s.prevD → s.estCnt + 1 = s.cfg.num .stopCount →
      ∃ b tl : Word, exec .brauto s = .next { s with
        est := s.est ++ [s.nSame], nSame := 0, bitrate := b, tolerance := tl, decoderState := .frame } ∧
        b.toNat = (2 * (∑ i ∈ Finset.Ico (s.cfg.num .detLo) (s.cfg.num .detHi),
            ((s.est ++ [s.nSame]).getD i 0).toNat) + (s.cfg.num .detHi - s.cfg.num .detLo)) /
          (2 * (s.cfg.num .detHi - s.cfg.num .detLo)) ∧
        tl.toNat = (2 * (b.toNat * s.cfg.num .tolNum) + s.cfg.num .tolDen) / (2 * s.cfg.num .tolDen))

/-- R111: where the intervals of the window all equal V, the bitrate BRAUTO settles is V exactly, and the tolerance is V
times the ratio, rounded half up; under the default ratio 1/2 it is V/2 rounded up. -/
def Obligations.EqualIntervalsGiveBitrate : Prop :=
  ∀ (s : State) (V : Word), configLegal s.cfg = true → s.cfg.num .autoEn = 1 → s.work.d ≠ s.prevD →
    s.estCnt + 1 = s.cfg.num .stopCount →
    (∀ i, s.cfg.num .detLo ≤ i → i < s.cfg.num .detHi → (s.est ++ [s.nSame]).getD i 0 = V) →
    ∃ t : State, exec .brauto s = .next t ∧ t.bitrate = V ∧ t.decoderState = .frame ∧
      t.tolerance.toNat = (2 * (V.toNat * s.cfg.num .tolNum) + s.cfg.num .tolDen) / (2 * s.cfg.num .tolDen) ∧
      (s.cfg.num .tolNum = 1 → s.cfg.num .tolDen = 2 → t.tolerance.toNat = (V.toNat + 1) / 2)

/-- R109: in BitrateDetect with AUTO_EN = 1, a gap step in which d does not change moves nothing but the debounce register
and the counter, which saturates; it raises nothing and emits nothing. -/
def Obligations.StalledDetectionOnlyCounts : Prop :=
  ∀ (g : Nat) (s : State), s.decoderState = .bitrateDetect → s.cfg.num .autoEn = 1 → 2 ≤ s.db.length →
    s.db.getD (s.db.length - 2) false = s.prevD →
    ∃ (db : List Bool) (n : Word) (w : Work), gapStep g s = .next { s with db := db, nSame := n, work := w } ∧
      db.length = s.db.length ∧ n.toNat = min (s.nSame.toNat + 1) (2 ^ 32 - 1)

/-! ## Bit detection and byte assembly (43_bit_byte.md) -/

/-- R114 to R116: BITDET: an edge yields the bit d and clears the counter; else a counter above the exact sum of bitrate and
tolerance yields the bit d and sets the counter to the tolerance; else nothing changes. A bit goes to BITAPPEND in Frame and
to IFBIT in Interframe. -/
def Obligations.BitdetDetectsAndRoutes : Prop :=
  ∀ s : State,
    (s.work.d = s.prevD → s.nSame.toNat ≤ s.bitrate.toNat + s.tolerance.toNat → exec .bitdet s = .next s) ∧
    (s.work.d ≠ s.prevD → s.decoderState ≠ .bitrateDetect →
      exec .bitdet s = exec (if s.decoderState = .frame then .bitappend else .ifbit)
        { s with nSame := 0, work.bit := s.work.d }) ∧
    (s.work.d = s.prevD → s.bitrate.toNat + s.tolerance.toNat < s.nSame.toNat → s.decoderState ≠ .bitrateDetect →
      exec .bitdet s = exec (if s.decoderState = .frame then .bitappend else .ifbit)
        { s with nSame := s.tolerance, work.bit := s.work.d })

/-- R117: GAPEND: prev_d takes d and the counter rises by 1, saturating at 2^32-1; nothing else changes. -/
def Obligations.GapendCountsAndSaturates : Prop :=
  ∀ s : State, ∃ n : Word, exec .gapend s = .next { s with prevD := s.work.d, nSame := n } ∧
    n.toNat = min (s.nSame.toNat + 1) (2 ^ 32 - 1)

/-- R118: BITAPPEND: the bit lands in the next slot; at the W-th the byte is decoded by BYTEDONE in the same operation. -/
def Obligations.BitappendFillsSlots : Prop :=
  ∀ s : State,
    (s.bbCnt + 1 ≠ s.cfg.num .w → exec .bitappend s = .next { s with bb := s.bb ++ [s.work.bit] }) ∧
    (s.bbCnt + 1 = s.cfg.num .w → exec .bitappend s = exec .bytedone { s with bb := s.bb ++ [s.work.bit] })

/-- R120, R121: BYTEDONE: the byte is the sum of bit i * 2^i over slots 0 to 7, the parity is 1 exactly when an odd number of
them are 1, the received parity bit is slot 8 (0 when W < 9; slot 8 is R121's own reading); the buffer is cleared; 255 is a delimiter whatever its
parity, opening or closing the stream; any other byte is a payload in an opened stream and discarded before. -/
def Obligations.BytedoneDecodesAndRoutes : Prop :=
  ∀ s : State, ∃ (byte : Byte) (par rxp : Bool),
    byte.toNat = ∑ i ∈ Finset.range 8, (s.bb.getD i false).toNat * 2 ^ i ∧
    (par = true ↔ ((s.bb.take 8).count true) % 2 = 1) ∧
    rxp = (if 9 ≤ s.cfg.num .w then s.bb.getD 8 false else false) ∧
    exec .bytedone s = exec
      (if byte = 255 then (if s.streamOpened = true then .delimClose else .delimOpen)
       else if s.streamOpened = true then .payload else .discard)
      { s with bb := [], work.byte := byte, work.par := par, work.rxp := rxp }

/-- R122: DELIM_OPEN sets stream_opened and nothing else; no message is emitted. -/
def Obligations.DelimOpenOnlyOpens : Prop :=
  ∀ s : State, exec .delimOpen s = .next { s with streamOpened := true }

/-- R123, R128: DELIM_CLOSE: the message is emitted, empty or not, the next number is one more, the buffer is empty and the
state Interframe; nothing else changes. Stated where a next number exists (assumption 9). -/
def Obligations.DelimCloseEmitsMessage : Prop :=
  ∀ s : State, s.seqSpent = false → s.seq.toNat < 2 ^ 32 - 1 →
    ∃ n : Word, n.toNat = s.seq.toNat + 1 ∧ exec .delimClose s = .next { s with
      out := s.out ++ [⟨s.seq, s.msgBuf⟩], seq := n, msgBuf := [], decoderState := .interframe }

/-- R128: MSGEMIT: the event carries the number and the characters in append order; the next number is one more and the
buffer is empty. Message 2^32-1 is emitted too, and after it MSGEMIT is refused (I27; assumption 9). -/
def Obligations.MsgemitNumbersMessages : Prop :=
  ∀ s : State,
    (s.seqSpent = false → s.seq.toNat < 2 ^ 32 - 1 →
      ∃ n : Word, n.toNat = s.seq.toNat + 1 ∧ exec .msgemit s = .next { s with
        out := s.out ++ [⟨s.seq, s.msgBuf⟩], seq := n, msgBuf := [] }) ∧
    (s.seqSpent = false → s.seq.toNat = 2 ^ 32 - 1 →
      ∃ n : Word, exec .msgemit s = .next { s with
        out := s.out ++ [⟨s.seq, s.msgBuf⟩], seq := n, seqSpent := true, msgBuf := [] }) ∧
    (s.seqSpent = true → exec .msgemit s = .refused .sequenceOverflow)

/-- R124 to R127: PAYLOAD: the character is the sentinel 0x3F when the byte is below 32 or above 126, or when parity is
enabled and the received bit is not the expected one (the computed parity, complemented under the odd convention, which is
R125's own completion); otherwise the byte. It is appended while fewer than MAX_MSG are held, else dropped; nothing else changes. -/
def Obligations.PayloadValidatesAndAppends : Prop :=
  ∀ s : State, ∃ ch : Byte,
    (ch = s.work.byte ∨ ch = 0x3F) ∧
    (ch = 0x3F ↔ s.work.byte = 0x3F ∨ s.work.byte.toNat < 32 ∨ 126 < s.work.byte.toNat ∨
      (s.cfg.num .parityEn = 1 ∧
        s.work.rxp ≠ (if s.cfg.num .parityOdd = 0 then s.work.par else !s.work.par))) ∧
    exec .payload s = .next (if s.msgBuf.length < s.cfg.num .maxMsg
      then { s with msgBuf := s.msgBuf ++ [ch] } else s)

/-- R130: DISCARD changes nothing. -/
def Obligations.DiscardDropsByte : Prop :=
  ∀ s : State, exec .discard s = .next s

/-- R129: IFBIT: a 0 returns to Frame and is not stored; a 1 changes nothing. -/
def Obligations.IfbitLeavesInterframeOnZero : Prop :=
  ∀ s : State,
    (s.work.bit = false → exec .ifbit s = .next { s with decoderState := .frame }) ∧
    (s.work.bit = true → exec .ifbit s = .next s)

/-- R114, R118, R120, R123: while a next number exists, BITDET, BITAPPEND, BYTEDONE and DELIM_CLOSE complete, whichever way
they route; they change at most the counter, the decoder state, stream_opened, the bit and message buffers, the number and
the latches, and emit at most one message. -/
def Obligations.BitPathCompletesWithinFrame : Prop :=
  ∀ (i : Instr) (s : State), i = .bitdet ∨ i = .bitappend ∨ i = .bytedone ∨ i = .delimClose → s.seqSpent = false →
    ∃ t : State, exec i s = .next t ∧
      t = { s with
        nSame := t.nSame, decoderState := t.decoderState, streamOpened := t.streamOpened, bb := t.bb,
        msgBuf := t.msgBuf, seq := t.seq, seqSpent := t.seqSpent, out := t.out, work := t.work } ∧
      (i ≠ .bitdet → t.nSame = s.nSame) ∧ (i = .delimClose → t.bb = s.bb) ∧
      (t.out = s.out ∨ t.out = s.out ++ [⟨s.seq, s.msgBuf⟩])

/-- R44, R120: no operation reachable from a gap step leaves a full bit buffer: from fewer than W bits BITAPPEND leaves fewer
than W, and exactly none when it decoded a byte. -/
def Obligations.BitBufferNeverFull : Prop :=
  ∀ s t : State, s.bbCnt < s.cfg.num .w → exec .bitappend s = .next t →
    t.bbCnt < s.cfg.num .w ∧ (s.bbCnt + 1 = s.cfg.num .w → t.bbCnt = 0)

/-- R131: with d held at 1 in Interframe from just after an edge (n_same = 1), the (B+T+1)-th held gap step is the first to
infer a bit, and then every (B+1)-th is: after k held steps the timeout test holds exactly for k = B+T and every B+1 on.
The core stays in Interframe and emits nothing. -/
def Obligations.IdleLineTiming : Prop :=
  ∀ (s : State) (k : Nat), s.decoderState = .interframe → s.work.d = true → s.prevD = true → s.nSame = 1 →
    s.bitrate.toNat + s.tolerance.toNat + 1 < 2 ^ 32 →
    ∃ t : State, heldSteps k s = .next t ∧ t.decoderState = .interframe ∧ t.out = s.out ∧
      (timeout t = true ↔ s.bitrate.toNat + s.tolerance.toNat ≤ k ∧
        (k - (s.bitrate.toNat + s.tolerance.toNat)) % (s.bitrate.toNat + 1) = 0)

/-! ## The status view -/

/-- R40, R78, R22 to R25: in every state the view shows each register it has, the four coded ones by their codes, and `est_cnt`
and `bb_cnt` as what the buffers hold (that these two have no width is the model's choice, assumption 21); `msg_len` is shown as
long as it fits its 16 bits (R35). -/
def Obligations.StatusViewShowsRegisters : Prop :=
  ∀ s : State,
    ((statusView s).runState = 0 ↔ s.runState = .halted) ∧ ((statusView s).runState = 1 ↔ s.runState = .running) ∧
    ((statusView s).runState = 2 ↔ s.runState = .faulted) ∧
    ((statusView s).faultCode = 0 ↔ s.faultCode = .none) ∧ ((statusView s).faultCode = 1 ↔ s.faultCode = .configError) ∧
    ((statusView s).faultCode = 2 ↔ s.faultCode = .illegalTransaction) ∧
    ((statusView s).termReason = 0 ↔ s.termReason = .none) ∧
    ((statusView s).termReason = 1 ↔ s.termReason = .endOfStream) ∧
    ((statusView s).termReason = 2 ↔ s.termReason = .acqError) ∧
    ((statusView s).termReason = 3 ↔ s.termReason = .cancelled) ∧
    ((statusView s).decoderState = 0 ↔ s.decoderState = .bitrateDetect) ∧
    ((statusView s).decoderState = 1 ↔ s.decoderState = .frame) ∧
    ((statusView s).decoderState = 2 ↔ s.decoderState = .interframe) ∧
    (statusView s).bitrate = s.bitrate ∧ (statusView s).tolerance = s.tolerance ∧ (statusView s).seq = s.seq ∧
    (statusView s).streamOpened = s.streamOpened ∧ (statusView s).nSame = s.nSame ∧ (statusView s).prevD = s.prevD ∧
    (statusView s).bbCnt = s.bb.length ∧ (statusView s).estCnt = s.est.length ∧
    (∀ r : CfgReg, (statusView s).cfg.read r = s.cfg.read r) ∧
    (s.msgBuf.length < 65536 → (statusView s).msgLen.toNat = s.msgBuf.length)
end

