-- ==== Sys2Proof/Laws/State.lean ====
section
/-!
SUPPORT. One lemma for each field and each shared update of the state, so that no later proof unfolds a record update.
-/

namespace Sys2Proof.Machine

/-! ## raiseFault -/

@[simp] theorem raiseFault_runState (code : FaultCode) (s : State) : (raiseFault code s).runState = .faulted := rfl
@[simp] theorem raiseFault_faultCode (code : FaultCode) (s : State) : (raiseFault code s).faultCode = code := rfl
@[simp] theorem raiseFault_termReason (code : FaultCode) (s : State) : (raiseFault code s).termReason = s.termReason := rfl
@[simp] theorem raiseFault_decoderState (code : FaultCode) (s : State) : (raiseFault code s).decoderState = s.decoderState := rfl
@[simp] theorem raiseFault_prevD (code : FaultCode) (s : State) : (raiseFault code s).prevD = s.prevD := rfl
@[simp] theorem raiseFault_streamOpened (code : FaultCode) (s : State) : (raiseFault code s).streamOpened = s.streamOpened := rfl
@[simp] theorem raiseFault_nSame (code : FaultCode) (s : State) : (raiseFault code s).nSame = s.nSame := rfl
@[simp] theorem raiseFault_bitrate (code : FaultCode) (s : State) : (raiseFault code s).bitrate = s.bitrate := rfl
@[simp] theorem raiseFault_tolerance (code : FaultCode) (s : State) : (raiseFault code s).tolerance = s.tolerance := rfl
@[simp] theorem raiseFault_cfg (code : FaultCode) (s : State) : (raiseFault code s).cfg = s.cfg := rfl
@[simp] theorem raiseFault_db (code : FaultCode) (s : State) : (raiseFault code s).db = s.db := rfl
@[simp] theorem raiseFault_est (code : FaultCode) (s : State) : (raiseFault code s).est = s.est := rfl
@[simp] theorem raiseFault_bb (code : FaultCode) (s : State) : (raiseFault code s).bb = s.bb := rfl
@[simp] theorem raiseFault_msgBuf (code : FaultCode) (s : State) : (raiseFault code s).msgBuf = s.msgBuf := rfl
@[simp] theorem raiseFault_seq (code : FaultCode) (s : State) : (raiseFault code s).seq = s.seq := rfl
@[simp] theorem raiseFault_seqSpent (code : FaultCode) (s : State) : (raiseFault code s).seqSpent = s.seqSpent := rfl
@[simp] theorem raiseFault_out (code : FaultCode) (s : State) : (raiseFault code s).out = s.out := rfl
@[simp] theorem raiseFault_runStart (code : FaultCode) (s : State) : (raiseFault code s).runStart = s.runStart := rfl
@[simp] theorem raiseFault_faults (code : FaultCode) (s : State) : (raiseFault code s).faults = s.faults ++ [code] := rfl
@[simp] theorem raiseFault_rx (code : FaultCode) (s : State) : (raiseFault code s).rx = s.rx := rfl
@[simp] theorem raiseFault_stagePort (code : FaultCode) (s : State) : (raiseFault code s).stagePort = s.stagePort := rfl
@[simp] theorem raiseFault_work (code : FaultCode) (s : State) : (raiseFault code s).work = s.work := rfl

/-! ## terminate -/

@[simp] theorem terminate_runState (reason : TermReason) (s : State) : (terminate reason s).runState = .halted := rfl
@[simp] theorem terminate_faultCode (reason : TermReason) (s : State) : (terminate reason s).faultCode = s.faultCode := rfl
@[simp] theorem terminate_termReason (reason : TermReason) (s : State) : (terminate reason s).termReason = reason := rfl
@[simp] theorem terminate_decoderState (reason : TermReason) (s : State) : (terminate reason s).decoderState = s.decoderState := rfl
@[simp] theorem terminate_prevD (reason : TermReason) (s : State) : (terminate reason s).prevD = s.prevD := rfl
@[simp] theorem terminate_streamOpened (reason : TermReason) (s : State) : (terminate reason s).streamOpened = s.streamOpened := rfl
@[simp] theorem terminate_nSame (reason : TermReason) (s : State) : (terminate reason s).nSame = s.nSame := rfl
@[simp] theorem terminate_bitrate (reason : TermReason) (s : State) : (terminate reason s).bitrate = s.bitrate := rfl
@[simp] theorem terminate_tolerance (reason : TermReason) (s : State) : (terminate reason s).tolerance = s.tolerance := rfl
@[simp] theorem terminate_cfg (reason : TermReason) (s : State) : (terminate reason s).cfg = s.cfg := rfl
@[simp] theorem terminate_db (reason : TermReason) (s : State) : (terminate reason s).db = s.db := rfl
@[simp] theorem terminate_est (reason : TermReason) (s : State) : (terminate reason s).est = s.est := rfl
@[simp] theorem terminate_bb (reason : TermReason) (s : State) : (terminate reason s).bb = s.bb := rfl
@[simp] theorem terminate_msgBuf (reason : TermReason) (s : State) : (terminate reason s).msgBuf = [] := rfl
@[simp] theorem terminate_seq (reason : TermReason) (s : State) : (terminate reason s).seq = s.seq := rfl
@[simp] theorem terminate_seqSpent (reason : TermReason) (s : State) : (terminate reason s).seqSpent = s.seqSpent := rfl
@[simp] theorem terminate_out (reason : TermReason) (s : State) : (terminate reason s).out = s.out := rfl
@[simp] theorem terminate_runStart (reason : TermReason) (s : State) : (terminate reason s).runStart = s.runStart := rfl
@[simp] theorem terminate_faults (reason : TermReason) (s : State) : (terminate reason s).faults = s.faults := rfl
@[simp] theorem terminate_rx (reason : TermReason) (s : State) : (terminate reason s).rx = s.rx := rfl
@[simp] theorem terminate_stagePort (reason : TermReason) (s : State) : (terminate reason s).stagePort = s.stagePort := rfl
@[simp] theorem terminate_work (reason : TermReason) (s : State) : (terminate reason s).work = s.work := rfl

/-! ## startSession -/

@[simp] theorem startSession_runState (s : State) : (startSession s).runState = .running := rfl
@[simp] theorem startSession_faultCode (s : State) : (startSession s).faultCode = .none := rfl
@[simp] theorem startSession_termReason (s : State) : (startSession s).termReason = .none := rfl
@[simp] theorem startSession_decoderState (s : State) : (startSession s).decoderState = .bitrateDetect := rfl
@[simp] theorem startSession_prevD (s : State) : (startSession s).prevD = false := rfl
@[simp] theorem startSession_streamOpened (s : State) : (startSession s).streamOpened = false := rfl
@[simp] theorem startSession_nSame (s : State) : (startSession s).nSame = 0 := rfl
@[simp] theorem startSession_bitrate (s : State) : (startSession s).bitrate = 0 := rfl
@[simp] theorem startSession_tolerance (s : State) : (startSession s).tolerance = 0 := rfl
@[simp] theorem startSession_cfg (s : State) : (startSession s).cfg = s.cfg := rfl
@[simp] theorem startSession_db (s : State) : (startSession s).db = List.replicate s.cfg.debounceLength false := rfl
@[simp] theorem startSession_est (s : State) : (startSession s).est = [] := rfl
@[simp] theorem startSession_bb (s : State) : (startSession s).bb = [] := rfl
@[simp] theorem startSession_msgBuf (s : State) : (startSession s).msgBuf = [] := rfl
@[simp] theorem startSession_seq (s : State) : (startSession s).seq = Config.firstSeq := rfl
@[simp] theorem startSession_seqSpent (s : State) : (startSession s).seqSpent = false := rfl
@[simp] theorem startSession_out (s : State) : (startSession s).out = s.out := rfl
@[simp] theorem startSession_runStart (s : State) : (startSession s).runStart = s.out.length := rfl
@[simp] theorem startSession_faults (s : State) : (startSession s).faults = s.faults := rfl
@[simp] theorem startSession_rx (s : State) : (startSession s).rx = s.rx := rfl
@[simp] theorem startSession_stagePort (s : State) : (startSession s).stagePort = s.stagePort := rfl
@[simp] theorem startSession_work (s : State) : (startSession s).work = Work.idle := rfl

/-! ## adoptBitrate -/

@[simp] theorem adoptBitrate_runState (b : Nat) (s : State) : (adoptBitrate b s).runState = s.runState := rfl
@[simp] theorem adoptBitrate_faultCode (b : Nat) (s : State) : (adoptBitrate b s).faultCode = s.faultCode := rfl
@[simp] theorem adoptBitrate_termReason (b : Nat) (s : State) : (adoptBitrate b s).termReason = s.termReason := rfl
@[simp] theorem adoptBitrate_decoderState (b : Nat) (s : State) : (adoptBitrate b s).decoderState = .frame := rfl
@[simp] theorem adoptBitrate_prevD (b : Nat) (s : State) : (adoptBitrate b s).prevD = s.prevD := rfl
@[simp] theorem adoptBitrate_streamOpened (b : Nat) (s : State) : (adoptBitrate b s).streamOpened = s.streamOpened := rfl
@[simp] theorem adoptBitrate_nSame (b : Nat) (s : State) : (adoptBitrate b s).nSame = s.nSame := rfl
@[simp] theorem adoptBitrate_bitrate (b : Nat) (s : State) : (adoptBitrate b s).bitrate = toWord b := rfl
@[simp] theorem adoptBitrate_tolerance (b : Nat) (s : State) : (adoptBitrate b s).tolerance = toWord (tol s.cfg b) := rfl
@[simp] theorem adoptBitrate_cfg (b : Nat) (s : State) : (adoptBitrate b s).cfg = s.cfg := rfl
@[simp] theorem adoptBitrate_db (b : Nat) (s : State) : (adoptBitrate b s).db = s.db := rfl
@[simp] theorem adoptBitrate_est (b : Nat) (s : State) : (adoptBitrate b s).est = s.est := rfl
@[simp] theorem adoptBitrate_bb (b : Nat) (s : State) : (adoptBitrate b s).bb = s.bb := rfl
@[simp] theorem adoptBitrate_msgBuf (b : Nat) (s : State) : (adoptBitrate b s).msgBuf = s.msgBuf := rfl
@[simp] theorem adoptBitrate_seq (b : Nat) (s : State) : (adoptBitrate b s).seq = s.seq := rfl
@[simp] theorem adoptBitrate_seqSpent (b : Nat) (s : State) : (adoptBitrate b s).seqSpent = s.seqSpent := rfl
@[simp] theorem adoptBitrate_out (b : Nat) (s : State) : (adoptBitrate b s).out = s.out := rfl
@[simp] theorem adoptBitrate_runStart (b : Nat) (s : State) : (adoptBitrate b s).runStart = s.runStart := rfl
@[simp] theorem adoptBitrate_faults (b : Nat) (s : State) : (adoptBitrate b s).faults = s.faults := rfl
@[simp] theorem adoptBitrate_rx (b : Nat) (s : State) : (adoptBitrate b s).rx = s.rx := rfl
@[simp] theorem adoptBitrate_stagePort (b : Nat) (s : State) : (adoptBitrate b s).stagePort = s.stagePort := rfl
@[simp] theorem adoptBitrate_work (b : Nat) (s : State) : (adoptBitrate b s).work = s.work := rfl

/-! ## recordInterval -/

@[simp] theorem recordInterval_runState (s : State) : (recordInterval s).runState = s.runState := rfl
@[simp] theorem recordInterval_faultCode (s : State) : (recordInterval s).faultCode = s.faultCode := rfl
@[simp] theorem recordInterval_termReason (s : State) : (recordInterval s).termReason = s.termReason := rfl
@[simp] theorem recordInterval_decoderState (s : State) : (recordInterval s).decoderState = s.decoderState := rfl
@[simp] theorem recordInterval_prevD (s : State) : (recordInterval s).prevD = s.prevD := rfl
@[simp] theorem recordInterval_streamOpened (s : State) : (recordInterval s).streamOpened = s.streamOpened := rfl
@[simp] theorem recordInterval_nSame (s : State) : (recordInterval s).nSame = 0 := rfl
@[simp] theorem recordInterval_bitrate (s : State) : (recordInterval s).bitrate = s.bitrate := rfl
@[simp] theorem recordInterval_tolerance (s : State) : (recordInterval s).tolerance = s.tolerance := rfl
@[simp] theorem recordInterval_cfg (s : State) : (recordInterval s).cfg = s.cfg := rfl
@[simp] theorem recordInterval_db (s : State) : (recordInterval s).db = s.db := rfl
@[simp] theorem recordInterval_est (s : State) : (recordInterval s).est = s.est ++ [s.nSame] := rfl
@[simp] theorem recordInterval_bb (s : State) : (recordInterval s).bb = s.bb := rfl
@[simp] theorem recordInterval_msgBuf (s : State) : (recordInterval s).msgBuf = s.msgBuf := rfl
@[simp] theorem recordInterval_seq (s : State) : (recordInterval s).seq = s.seq := rfl
@[simp] theorem recordInterval_seqSpent (s : State) : (recordInterval s).seqSpent = s.seqSpent := rfl
@[simp] theorem recordInterval_out (s : State) : (recordInterval s).out = s.out := rfl
@[simp] theorem recordInterval_runStart (s : State) : (recordInterval s).runStart = s.runStart := rfl
@[simp] theorem recordInterval_faults (s : State) : (recordInterval s).faults = s.faults := rfl
@[simp] theorem recordInterval_rx (s : State) : (recordInterval s).rx = s.rx := rfl
@[simp] theorem recordInterval_stagePort (s : State) : (recordInterval s).stagePort = s.stagePort := rfl
@[simp] theorem recordInterval_work (s : State) : (recordInterval s).work = s.work := rfl

/-! ## emitMsg -/

@[simp] theorem emitMsg_runState (s : State) : (emitMsg s).runState = s.runState := rfl
@[simp] theorem emitMsg_faultCode (s : State) : (emitMsg s).faultCode = s.faultCode := rfl
@[simp] theorem emitMsg_termReason (s : State) : (emitMsg s).termReason = s.termReason := rfl
@[simp] theorem emitMsg_decoderState (s : State) : (emitMsg s).decoderState = s.decoderState := rfl
@[simp] theorem emitMsg_prevD (s : State) : (emitMsg s).prevD = s.prevD := rfl
@[simp] theorem emitMsg_streamOpened (s : State) : (emitMsg s).streamOpened = s.streamOpened := rfl
@[simp] theorem emitMsg_nSame (s : State) : (emitMsg s).nSame = s.nSame := rfl
@[simp] theorem emitMsg_bitrate (s : State) : (emitMsg s).bitrate = s.bitrate := rfl
@[simp] theorem emitMsg_tolerance (s : State) : (emitMsg s).tolerance = s.tolerance := rfl
@[simp] theorem emitMsg_cfg (s : State) : (emitMsg s).cfg = s.cfg := rfl
@[simp] theorem emitMsg_db (s : State) : (emitMsg s).db = s.db := rfl
@[simp] theorem emitMsg_est (s : State) : (emitMsg s).est = s.est := rfl
@[simp] theorem emitMsg_bb (s : State) : (emitMsg s).bb = s.bb := rfl
@[simp] theorem emitMsg_msgBuf (s : State) : (emitMsg s).msgBuf = [] := rfl
@[simp] theorem emitMsg_seq (s : State) : (emitMsg s).seq = if s.seq.toNat = Config.counterMax then Config.seqBeyond s.out.length else s.seq + 1 := rfl
@[simp] theorem emitMsg_seqSpent (s : State) : (emitMsg s).seqSpent = decide (s.seq.toNat = Config.counterMax) := rfl
@[simp] theorem emitMsg_out (s : State) : (emitMsg s).out = s.out ++ [⟨s.seq, s.msgBuf⟩] := rfl
@[simp] theorem emitMsg_runStart (s : State) : (emitMsg s).runStart = s.runStart := rfl
@[simp] theorem emitMsg_faults (s : State) : (emitMsg s).faults = s.faults := rfl
@[simp] theorem emitMsg_rx (s : State) : (emitMsg s).rx = s.rx := rfl
@[simp] theorem emitMsg_stagePort (s : State) : (emitMsg s).stagePort = s.stagePort := rfl
@[simp] theorem emitMsg_work (s : State) : (emitMsg s).work = s.work := rfl

/-! ## storeBit -/

@[simp] theorem storeBit_runState (s : State) : (storeBit s).runState = s.runState := rfl
@[simp] theorem storeBit_faultCode (s : State) : (storeBit s).faultCode = s.faultCode := rfl
@[simp] theorem storeBit_termReason (s : State) : (storeBit s).termReason = s.termReason := rfl
@[simp] theorem storeBit_decoderState (s : State) : (storeBit s).decoderState = s.decoderState := rfl
@[simp] theorem storeBit_prevD (s : State) : (storeBit s).prevD = s.prevD := rfl
@[simp] theorem storeBit_streamOpened (s : State) : (storeBit s).streamOpened = s.streamOpened := rfl
@[simp] theorem storeBit_nSame (s : State) : (storeBit s).nSame = s.nSame := rfl
@[simp] theorem storeBit_bitrate (s : State) : (storeBit s).bitrate = s.bitrate := rfl
@[simp] theorem storeBit_tolerance (s : State) : (storeBit s).tolerance = s.tolerance := rfl
@[simp] theorem storeBit_cfg (s : State) : (storeBit s).cfg = s.cfg := rfl
@[simp] theorem storeBit_db (s : State) : (storeBit s).db = s.db := rfl
@[simp] theorem storeBit_est (s : State) : (storeBit s).est = s.est := rfl
@[simp] theorem storeBit_bb (s : State) : (storeBit s).bb = s.bb ++ [s.work.bit] := rfl
@[simp] theorem storeBit_msgBuf (s : State) : (storeBit s).msgBuf = s.msgBuf := rfl
@[simp] theorem storeBit_seq (s : State) : (storeBit s).seq = s.seq := rfl
@[simp] theorem storeBit_seqSpent (s : State) : (storeBit s).seqSpent = s.seqSpent := rfl
@[simp] theorem storeBit_out (s : State) : (storeBit s).out = s.out := rfl
@[simp] theorem storeBit_runStart (s : State) : (storeBit s).runStart = s.runStart := rfl
@[simp] theorem storeBit_faults (s : State) : (storeBit s).faults = s.faults := rfl
@[simp] theorem storeBit_rx (s : State) : (storeBit s).rx = s.rx := rfl
@[simp] theorem storeBit_stagePort (s : State) : (storeBit s).stagePort = s.stagePort := rfl
@[simp] theorem storeBit_work (s : State) : (storeBit s).work = s.work := rfl

/-! ## decodeByte -/

@[simp] theorem decodeByte_runState (s : State) : (decodeByte s).runState = s.runState := rfl
@[simp] theorem decodeByte_faultCode (s : State) : (decodeByte s).faultCode = s.faultCode := rfl
@[simp] theorem decodeByte_termReason (s : State) : (decodeByte s).termReason = s.termReason := rfl
@[simp] theorem decodeByte_decoderState (s : State) : (decodeByte s).decoderState = s.decoderState := rfl
@[simp] theorem decodeByte_prevD (s : State) : (decodeByte s).prevD = s.prevD := rfl
@[simp] theorem decodeByte_streamOpened (s : State) : (decodeByte s).streamOpened = s.streamOpened := rfl
@[simp] theorem decodeByte_nSame (s : State) : (decodeByte s).nSame = s.nSame := rfl
@[simp] theorem decodeByte_bitrate (s : State) : (decodeByte s).bitrate = s.bitrate := rfl
@[simp] theorem decodeByte_tolerance (s : State) : (decodeByte s).tolerance = s.tolerance := rfl
@[simp] theorem decodeByte_cfg (s : State) : (decodeByte s).cfg = s.cfg := rfl
@[simp] theorem decodeByte_db (s : State) : (decodeByte s).db = s.db := rfl
@[simp] theorem decodeByte_est (s : State) : (decodeByte s).est = s.est := rfl
@[simp] theorem decodeByte_bb (s : State) : (decodeByte s).bb = [] := rfl
@[simp] theorem decodeByte_msgBuf (s : State) : (decodeByte s).msgBuf = s.msgBuf := rfl
@[simp] theorem decodeByte_seq (s : State) : (decodeByte s).seq = s.seq := rfl
@[simp] theorem decodeByte_seqSpent (s : State) : (decodeByte s).seqSpent = s.seqSpent := rfl
@[simp] theorem decodeByte_out (s : State) : (decodeByte s).out = s.out := rfl
@[simp] theorem decodeByte_runStart (s : State) : (decodeByte s).runStart = s.runStart := rfl
@[simp] theorem decodeByte_faults (s : State) : (decodeByte s).faults = s.faults := rfl
@[simp] theorem decodeByte_rx (s : State) : (decodeByte s).rx = s.rx := rfl
@[simp] theorem decodeByte_stagePort (s : State) : (decodeByte s).stagePort = s.stagePort := rfl
@[simp] theorem decodeByte_work (s : State) : (decodeByte s).work = { s.work with byte := byteOf s.bb, par := parityOf s.bb, rxp := receivedParity s.cfg s.bb } := rfl

/-! ## appendChar -/

@[simp] theorem appendChar_runState (ch : Byte) (s : State) : (appendChar ch s).runState = s.runState := by
  unfold appendChar; split <;> rfl
@[simp] theorem appendChar_faultCode (ch : Byte) (s : State) : (appendChar ch s).faultCode = s.faultCode := by
  unfold appendChar; split <;> rfl
@[simp] theorem appendChar_termReason (ch : Byte) (s : State) : (appendChar ch s).termReason = s.termReason := by
  unfold appendChar; split <;> rfl
@[simp] theorem appendChar_decoderState (ch : Byte) (s : State) : (appendChar ch s).decoderState = s.decoderState := by
  unfold appendChar; split <;> rfl
@[simp] theorem appendChar_prevD (ch : Byte) (s : State) : (appendChar ch s).prevD = s.prevD := by
  unfold appendChar; split <;> rfl
@[simp] theorem appendChar_streamOpened (ch : Byte) (s : State) : (appendChar ch s).streamOpened = s.streamOpened := by
  unfold appendChar; split <;> rfl
@[simp] theorem appendChar_nSame (ch : Byte) (s : State) : (appendChar ch s).nSame = s.nSame := by
  unfold appendChar; split <;> rfl
@[simp] theorem appendChar_bitrate (ch : Byte) (s : State) : (appendChar ch s).bitrate = s.bitrate := by
  unfold appendChar; split <;> rfl
@[simp] theorem appendChar_tolerance (ch : Byte) (s : State) : (appendChar ch s).tolerance = s.tolerance := by
  unfold appendChar; split <;> rfl
@[simp] theorem appendChar_cfg (ch : Byte) (s : State) : (appendChar ch s).cfg = s.cfg := by
  unfold appendChar; split <;> rfl
@[simp] theorem appendChar_db (ch : Byte) (s : State) : (appendChar ch s).db = s.db := by
  unfold appendChar; split <;> rfl
@[simp] theorem appendChar_est (ch : Byte) (s : State) : (appendChar ch s).est = s.est := by
  unfold appendChar; split <;> rfl
@[simp] theorem appendChar_bb (ch : Byte) (s : State) : (appendChar ch s).bb = s.bb := by
  unfold appendChar; split <;> rfl
@[simp] theorem appendChar_seq (ch : Byte) (s : State) : (appendChar ch s).seq = s.seq := by
  unfold appendChar; split <;> rfl
@[simp] theorem appendChar_seqSpent (ch : Byte) (s : State) : (appendChar ch s).seqSpent = s.seqSpent := by
  unfold appendChar; split <;> rfl
@[simp] theorem appendChar_out (ch : Byte) (s : State) : (appendChar ch s).out = s.out := by
  unfold appendChar; split <;> rfl
@[simp] theorem appendChar_runStart (ch : Byte) (s : State) : (appendChar ch s).runStart = s.runStart := by
  unfold appendChar; split <;> rfl
@[simp] theorem appendChar_faults (ch : Byte) (s : State) : (appendChar ch s).faults = s.faults := by
  unfold appendChar; split <;> rfl
@[simp] theorem appendChar_rx (ch : Byte) (s : State) : (appendChar ch s).rx = s.rx := by
  unfold appendChar; split <;> rfl
@[simp] theorem appendChar_stagePort (ch : Byte) (s : State) : (appendChar ch s).stagePort = s.stagePort := by
  unfold appendChar; split <;> rfl
@[simp] theorem appendChar_work (ch : Byte) (s : State) : (appendChar ch s).work = s.work := by
  unfold appendChar; split <;> rfl
@[simp] theorem appendChar_msgBuf (ch : Byte) (s : State) :
    (appendChar ch s).msgBuf = if s.msgBuf.length < s.cfg.num .maxMsg then s.msgBuf ++ [ch] else s.msgBuf := by
  unfold appendChar; split <;> rfl

end Sys2Proof.Machine
end

