-- ==== Sys2Proof/Laws/Ops.lean ====
section
/-!
SUPPORT. One lemma for each shared operation that says everything it can do.
-/

namespace Sys2Proof.Machine

/-! ## Sequencing -/

@[simp] theorem andThen_next (s : State) (f : State → Result) : andThen (.next s) f = f s := rfl

@[simp] theorem andThen_refused (e : Refusal) (f : State → Result) : andThen (.refused e) f = .refused e := rfl

/-- A sequence answers a next state exactly when both of its parts do. -/
theorem andThen_eq_next {r : Result} {f : State → Result} {t : State} :
    andThen r f = .next t ↔ ∃ u, r = .next u ∧ f u = .next t := by
  cases r <;> simp [andThen]

/-- A sequence is refused where its first part is, or its second after the first. -/
theorem andThen_eq_refused {r : Result} {f : State → Result} {e : Refusal} :
    andThen r f = .refused e ↔ r = .refused e ∨ ∃ u, r = .next u ∧ f u = .refused e := by
  cases r <;> simp [andThen]

theorem andThen_assoc (r : Result) (f g : State → Result) :
    andThen (andThen r f) g = andThen r fun s => andThen (f s) g := by
  cases r <;> rfl

/-! ## Faults -/

theorem illegalTransaction_faulted {s : State} (h : s.runState = .faulted) : illegalTransaction s = s := by
  simp [illegalTransaction, h]

theorem illegalTransaction_raises {s : State} (h : s.runState ≠ .faulted) :
    illegalTransaction s = raiseFault .illegalTransaction s := by
  unfold illegalTransaction
  split <;> simp_all

/-! ## Arithmetic (R14) -/

theorem toWord_toNat {n : Nat} (h : n < 4294967296) : (toWord n).toNat = n := by
  simp only [toWord, if_pos h, BitVec.toNat_ofNat]
  exact Nat.mod_eq_of_lt h

theorem toWord_num (x : Word) : toWord x.toNat = x := by
  have h := x.isLt
  rw [toWord, if_pos h, BitVec.ofNat_toNat, BitVec.setWidth_eq]

theorem roundHalfUp_of_pos {n d : Nat} (h : 0 < d) : roundHalfUp n d = (2 * n + d) / (2 * d) :=
  if_neg (Nat.pos_iff_ne_zero.mp h)

/-- A rounded quotient is at most a bound that the exact one is at most. -/
theorem roundHalfUp_le {n d b : Nat} (h : 0 < d) (hn : n ≤ b * d) : roundHalfUp n d ≤ b := by
  rw [roundHalfUp_of_pos h]
  have : 2 * n + d < (b + 1) * (2 * d) := by nlinarith
  exact Nat.le_of_lt_succ ((Nat.div_lt_iff_lt_mul (by omega)).mpr this)

theorem sat32_lt (n : Nat) : sat32 n < 4294967296 := by
  simp only [sat32, Config.counterMax]; omega

/-! ## The configuration check (R80) -/

/-- A legal configuration, clause by clause, on the values the stages read. -/
theorem configLegal_clauses {c : ConfigRegs} (h : configLegal c = true) :
    legalPresent c = true ∧ legalLength c = true ∧ legalDepth c = true ∧ legalBits c = true ∧ legalWidth c = true ∧
      legalRatio c = true ∧ legalMaxMsg c = true ∧ legalFixed c = true ∧ legalWindow c = true := by
  simpa [configLegal, and_assoc] using h

theorem configLegal_length {c : ConfigRegs} (h : configLegal c = true) :
    1 ≤ c.num .g ∧ 1 ≤ c.num .a ∧ 1 ≤ c.num .v ∧ c.blockLength ≤ 16777215 := by
  exact of_decide_eq_true (configLegal_clauses h).2.1

theorem configLegal_width {c : ConfigRegs} (h : configLegal c = true) :
    8 ≤ c.num .w ∧ c.num .w ≤ 32 ∧ (c.num .parityEn = 1 → 9 ≤ c.num .w) := by
  exact of_decide_eq_true (configLegal_clauses h).2.2.2.2.1

theorem configLegal_ratio {c : ConfigRegs} (h : configLegal c = true) :
    c.num .tolNum ≤ 65535 ∧ 1 ≤ c.num .tolDen ∧ c.num .tolDen ≤ 65535 ∧ c.num .tolNum ≤ c.num .tolDen := by
  simpa [legalRatio] using (configLegal_clauses h).2.2.2.2.2.1

theorem configLegal_maxMsg {c : ConfigRegs} (h : configLegal c = true) : c.num .maxMsg ≤ 65535 := by
  simpa [legalMaxMsg] using (configLegal_clauses h).2.2.2.2.2.2.1

theorem configLegal_autoEn {c : ConfigRegs} (h : configLegal c = true) : c.num .autoEn = 0 ∨ c.num .autoEn = 1 := by
  have := (configLegal_clauses h).2.2.2.1
  simp [legalBits] at this
  omega

theorem configLegal_window {c : ConfigRegs} (h : configLegal c = true) (ha : c.num .autoEn = 1) :
    1 ≤ c.num .stopCount ∧ c.num .stopCount ≤ 1024 ∧ c.num .detLo < c.num .detHi ∧
      c.num .detHi ≤ c.num .stopCount := by
  have := (configLegal_clauses h).2.2.2.2.2.2.2.2
  simpa [legalWindow, ha] using this

/-- Under a legal configuration the tolerance is at most the bitrate (R106). -/
theorem tol_le {c : ConfigRegs} (h : configLegal c = true) (b : Nat) : tol c b ≤ b := by
  obtain ⟨-, hd, -, hle⟩ := configLegal_ratio h
  exact roundHalfUp_le hd (Nat.mul_le_mul_left b hle)

/-! ## Debounce (R97) -/

@[simp] theorem shiftIn_length (db : List Bool) (x : Bool) (h : db ≠ []) : (shiftIn db x).length = db.length := by
  have := List.length_pos_of_ne_nil h
  simp [shiftIn]; omega

/-- DEBOUNCE keeps the length of the register (R44). -/
theorem debounced_length {db : List Bool} (h : db ≠ []) (x : Bool) : (debounced db x).length = db.length := by
  simp only [debounced]
  split <;> simp [h]

/-! ## The registers a value can be read from (R29 to R31) -/

/-- A register that holds a value reads as it (R31). -/
theorem value_of_read {c : ConfigRegs} {r : CfgReg} {x : Word} (h : c.read r = some x) : c.value r = x := by
  simp [ConfigRegs.value, h]

/-- A write is read back, and every other register is as it was (R81). -/
theorem read_write (c : ConfigRegs) (x : Word) (r q : CfgReg) :
    (c.write x r).read q = if q = r then some x else c.read q := by
  cases r <;> cases q <;> rfl

/-- The two index functions of R29 are inverse. -/
theorem ofIndex_index (r : CfgReg) : CfgReg.ofIndex (BitVec.ofNat 8 r.index) = some r := by
  cases r <;> rfl

theorem ofIndex_eq_some {idx : BitVec 8} {r : CfgReg} : CfgReg.ofIndex idx = some r ↔ r.index = idx.toNat := by
  revert idx; cases r <;> decide

theorem ofIndex_eq_none {idx : BitVec 8} : CfgReg.ofIndex idx = none ↔ 16 ≤ idx.toNat := by
  revert idx; decide

/-! ## Samples (R12) -/

theorem takeSamples_eq {n i : Nat} {xs : List Byte} (h : n ≤ xs.length) : takeSamples n i xs = xs.take n := by
  induction n generalizing i xs with
  | zero => simp [takeSamples]
  | succ n ih =>
    cases xs with
    | nil => simp at h
    | cons x rest => simp [takeSamples, ih (by simpa using h)]

/-- Inside the block, MemRead reads the block's own samples (R12). -/
theorem memRead_eq {block : List Byte} {i n : Nat} (h : i + n ≤ block.length) :
    memRead block i n = (block.drop i).take n := by
  rw [memRead, takeSamples_eq]
  simp; omega

end Sys2Proof.Machine
end

