-- ==== Sys2Proof/Laws/PerInstr.lean ====
section
/-!
SUPPORT. The per-instruction family EncodedLength: the encoding of a well-formed operation is a legal header followed by as
many words as that header says (R62 to R69, R71), or a stage code that names the operation (R70).
-/

namespace Sys2Proof.Laws

/-- A payload of `n` bytes takes `ceil(n/4)` words (R65). -/
theorem packBytes_length (xs : List Byte) : (packBytes xs).length = (xs.length + 3) / 4 := by
  induction xs using packBytes.induct with
  | case1 => simp [packBytes]
  | case2 => simp [packBytes]
  | case3 => simp [packBytes]
  | case4 => simp [packBytes]
  | case5 b0 b1 b2 b3 rest ih => simp only [packBytes, List.length_cons, ih]; omega

/-! ## The fields of a header (R62) -/

/-- Bit `i` of a header is a bit of the field it lies in (R62). -/
theorem header_bit (arg : BitVec 24) (sub op : BitVec 4) (i : Nat) :
    (header arg sub op).getLsbD i =
      if i < 4 then op.getLsbD i else if i < 8 then sub.getLsbD (i - 4) else arg.getLsbD (i - 8) := by
  have outer : (header arg sub op).getLsbD i = if i < 4 then op.getLsbD i else (arg ++ sub).getLsbD (i - 4) :=
    BitVec.getLsbD_append
  rw [outer, BitVec.getLsbD_append, Nat.sub_sub]
  split
  · rfl
  · have h : i - 4 < 4 ↔ i < 8 := by omega
    simp [h]

@[simp] theorem opOf_header (arg : BitVec 24) (sub op : BitVec 4) : opOf (header arg sub op) = op.toNat := by
  have h : (header arg sub op).extractLsb' 0 4 = op := by
    ext i hi
    simp [header_bit, hi]
  rw [opOf, h]

@[simp] theorem subOf_header (arg : BitVec 24) (sub op : BitVec 4) : subOf (header arg sub op) = sub := by
  ext i hi
  have h8 : 4 + i < 8 := by omega
  simp [subOf, header_bit, h8, hi]

@[simp] theorem argOf_header (arg : BitVec 24) (sub op : BitVec 4) : argOf (header arg sub op) = arg := by
  ext i hi
  have h4 : ¬ 8 + i < 4 := by omega
  simp [argOf, header_bit, h4, hi]

end Sys2Proof.Laws

namespace Sys2Proof.Laws.EncodedLength

/-- What EncodedLength says of an operation. -/
def Statement (i : Instr) : Prop :=
  i.wf = true →
    match encode i with
    | .host ws => ∃ h payload, ws = h :: payload ∧ headerProblem h = none ∧ ws.length = transactionLength h
    | .stage code => decodeStage code = some i

theorem reset : Statement .reset := fun _ => ⟨_, _, rfl, by decide, by decide⟩

/-- The header of a CFGW with a legal index passes R71's checks. -/
theorem cfgw_header (idx : BitVec 8) : idx.toNat < 16 → headerProblem (header ((0#16 : BitVec 16) ++ idx) 0 1) = none := by
  revert idx; decide

theorem cfgw (idx : BitVec 8) (value : Word) : Statement (.cfgw idx value) := by
  intro h
  exact ⟨_, _, rfl, cfgw_header idx (of_decide_eq_true h), by simp [transactionLength, payloadWords]⟩

theorem block (samples : List Byte) : Statement (.block samples) := by
  intro h
  have hlt : samples.length < 16777216 := of_decide_eq_true h
  refine ⟨_, _, rfl, by simp [headerProblem], ?_⟩
  simp [transactionLength, payloadWords, packBytes_length, Nat.mod_eq_of_lt hlt, Nat.add_comm]

theorem endSession (reason : Bool) : Statement (.endSession reason) := by
  intro _
  exact ⟨_, _, rfl, by revert reason; decide, by revert reason; decide⟩

theorem cancel : Statement .cancel := fun _ => ⟨_, _, rfl, by decide, by decide⟩
theorem avg : Statement .avg := fun _ => rfl
theorem gapdet : Statement .gapdet := fun _ => rfl
theorem debounce : Statement .debounce := fun _ => rfl
theorem brfix : Statement .brfix := fun _ => rfl
theorem brauto : Statement .brauto := fun _ => rfl
theorem bitdet : Statement .bitdet := fun _ => rfl
theorem gapend : Statement .gapend := fun _ => rfl
theorem bitappend : Statement .bitappend := fun _ => rfl
theorem bytedone : Statement .bytedone := fun _ => rfl
theorem delimOpen : Statement .delimOpen := fun _ => rfl
theorem delimClose : Statement .delimClose := fun _ => rfl
theorem payload : Statement .payload := fun _ => rfl
theorem discard : Statement .discard := fun _ => rfl
theorem msgemit : Statement .msgemit := fun _ => rfl
theorem ifbit : Statement .ifbit := fun _ => rfl

end Sys2Proof.Laws.EncodedLength
end

