-- ==== Sys2Proof/Laws/Stages.lean ====
section
/-!
SUPPORT. What each stage operation can do, said once: if it answers a next state, then which; and what the operations of
the bit path leave unchanged, whichever way they route.
-/

namespace Sys2Proof.Machine

/-! ## The gap step (R90) -/

/-- The state after AVG, GAPDET and DEBOUNCE of gap `g`, which never stop. -/
def afterSignalPath (g : Nat) (s : State) : State :=
  { s with
    db := debounced s.db (subBit (gapAverages s.cfg s.work.block g) (s.cfg.num .thresh))
    work := { s.work with
      gap := g
      avg := gapAverages s.cfg s.work.block g
      sub := subBit (gapAverages s.cfg s.work.block g) (s.cfg.num .thresh)
      d := oldest (debounced s.db (subBit (gapAverages s.cfg s.work.block g) (s.cfg.num .thresh))) } }

/-- The state after GAPEND (R117). -/
def afterGapend (s : State) : State :=
  { s with prevD := s.work.d, nSame := toWord (sat32 (s.nSame.toNat + 1)) }

theorem gapStep_eq (g : Nat) (s : State) :
    gapStep g s = andThen (decodeStageOfGap (afterSignalPath g s)) execGapend := rfl

/-- A gap step that answers a next state: the signal path, the decoder's stage, GAPEND. -/
theorem gapStep_eq_next {g : Nat} {s t : State} :
    gapStep g s = .next t ↔ ∃ u, decodeStageOfGap (afterSignalPath g s) = .next u ∧ t = afterGapend u := by
  rw [gapStep_eq, andThen_eq_next]
  simp [execGapend, afterGapend, eq_comm]

/-- GAPEND's counter, exactly (R117). -/
theorem afterGapend_nSame (s : State) : (afterGapend s).nSame.toNat = min (s.nSame.toNat + 1) 4294967295 :=
  toWord_toNat (sat32_lt _)

/-! ## BRAUTO (R107) -/

/-- BRAUTO never stops: it changes nothing, records an interval, or settles the bitrate. -/
theorem execBrauto_cases (s : State) :
    (edge s = false ∧ execBrauto s = .next s) ∨
    (edge s = true ∧ s.estCnt + 1 ≠ s.cfg.num .stopCount ∧ execBrauto s = .next (recordInterval s)) ∨
    (edge s = true ∧ s.estCnt + 1 = s.cfg.num .stopCount ∧
      execBrauto s = .next (adoptBitrate (windowMean s.cfg (recordInterval s).est) (recordInterval s))) := by
  unfold execBrauto
  cases h : edge s
  · simp
  · by_cases h2 : s.estCnt + 1 = s.cfg.num .stopCount
    · simp [State.estCnt] at h2 ⊢; simp [h2]
    · simp [State.estCnt] at h2 ⊢; simp [h2]

/-! ## The bit path -/

theorem execMsgemit_eq_next {s t : State} :
    execMsgemit s = .next t ↔ s.seqSpent = false ∧ t = emitMsg s := by
  unfold execMsgemit
  cases h : s.seqSpent <;> simp [eq_comm]

theorem execDelimClose_eq_next {s t : State} :
    execDelimClose s = .next t ↔ s.seqSpent = false ∧ t = { emitMsg s with decoderState := .interframe } := by
  unfold execDelimClose
  rw [andThen_eq_next]
  simp only [execMsgemit_eq_next, Host.Outcome.next.injEq]
  exact ⟨by rintro ⟨u, ⟨h, rfl⟩, rfl⟩; exact ⟨h, rfl⟩, by rintro ⟨h, rfl⟩; exact ⟨_, ⟨h, rfl⟩, rfl⟩⟩

/-- The four ways BYTEDONE goes (R120). -/
inductive ByteStep (s : State) : State → Prop
  | opened (hs : s.streamOpened = false) : ByteStep s { decodeByte s with streamOpened := true }
  | closed (hs : s.streamOpened = true) (hq : s.seqSpent = false) :
      ByteStep s { emitMsg (decodeByte s) with decoderState := .interframe }
  | appended (hs : s.streamOpened = true) (ch : Byte) (hc : printable ch = true) :
      ByteStep s (appendChar ch (decodeByte s))
  | discarded (hs : s.streamOpened = false) : ByteStep s (decodeByte s)

/-- The character of a payload byte is printable: the byte itself where it is, and the sentinel otherwise (R126, R132). -/
theorem payloadChar_printable (c : ConfigRegs) (b : Byte) (par rxp : Bool) :
    printable (payloadChar c b par rxp) = true := by
  unfold payloadChar
  split
  · decide
  · rename_i h; simp at h; exact h.2

theorem execBytedone_cases {s t : State} (h : execBytedone s = .next t) : ByteStep s t := by
  unfold execBytedone at h
  cases hs : s.streamOpened <;> simp [hs] at h <;> split at h
  · simp only [execDelimOpen, Host.Outcome.next.injEq] at h
    exact h ▸ .opened hs
  · simp only [execDiscard, Host.Outcome.next.injEq] at h
    exact h ▸ .discarded hs
  · obtain ⟨hq, rfl⟩ := execDelimClose_eq_next.mp h
    exact .closed hs hq
  · simp only [execPayload, Host.Outcome.next.injEq] at h
    exact h ▸ .appended hs _ (payloadChar_printable _ _ _ _)

/-- The two ways BITAPPEND goes (R118). -/
theorem execBitappend_cases {s t : State} (h : execBitappend s = .next t) :
    (s.bbCnt + 1 ≠ s.cfg.num .w ∧ t = storeBit s) ∨ (s.bbCnt + 1 = s.cfg.num .w ∧ ByteStep (storeBit s) t) := by
  unfold execBitappend at h
  simp only [State.bbCnt, storeBit_bb, storeBit_cfg, List.length_append, List.length_singleton] at h ⊢
  split at h
  · rename_i hw; exact .inr ⟨hw, execBytedone_cases h⟩
  · rename_i hw; simp only [Host.Outcome.next.injEq] at h; exact .inl ⟨hw, h.symm⟩

/-- The bit that BITDET detects in a state, and the counter it leaves, if it detects one (R114). -/
def detectedState (s : State) : Option State :=
  if edge s then some { s with nSame := 0, work.bit := s.work.d }
  else if timeout s then some { s with nSame := s.tolerance, work.bit := s.work.d }
  else none

theorem execBitdet_eq (s : State) :
    execBitdet s = match detectedState s with
      | some u => routeBit u
      | none => .next s := by
  unfold execBitdet detectedState
  split
  · rfl
  · split <;> rfl

/-! ## What the bit path leaves unchanged -/

/-- What an operation of the bit path leaves as it was, and what it may emit. -/
structure BitFrame (s t : State) : Prop where
  runState : t.runState = s.runState
  faultCode : t.faultCode = s.faultCode
  termReason : t.termReason = s.termReason
  prevD : t.prevD = s.prevD
  bitrate : t.bitrate = s.bitrate
  tolerance : t.tolerance = s.tolerance
  cfg : t.cfg = s.cfg
  db : t.db = s.db
  est : t.est = s.est
  runStart : t.runStart = s.runStart
  faults : t.faults = s.faults
  rx : t.rx = s.rx
  stagePort : t.stagePort = s.stagePort
  d : t.work.d = s.work.d
  block : t.work.block = s.work.block
  out : t.out = s.out ∨ t.out = s.out ++ [⟨s.seq, s.msgBuf⟩]

theorem BitFrame.refl (s : State) : BitFrame s s :=
  ⟨rfl, rfl, rfl, rfl, rfl, rfl, rfl, rfl, rfl, rfl, rfl, rfl, rfl, rfl, rfl, .inl rfl⟩

theorem ByteStep.frame {s t : State} (h : ByteStep s t) : BitFrame s t ∧ t.nSame = s.nSame := by
  cases h <;> constructor <;> first | constructor <;> simp | simp

theorem execBitappend_frame {s t : State} (h : execBitappend s = .next t) : BitFrame s t ∧ t.nSame = s.nSame := by
  rcases execBitappend_cases h with ⟨-, rfl⟩ | ⟨-, hb⟩
  · constructor
    · constructor <;> simp
    · simp
  · obtain ⟨hf, hn⟩ := hb.frame
    constructor
    · constructor <;> first | simpa using hf.out | (first | simp [hf.runState, hf.faultCode, hf.termReason, hf.prevD,
        hf.bitrate, hf.tolerance, hf.cfg, hf.db, hf.est, hf.runStart, hf.faults, hf.rx, hf.stagePort, hf.d, hf.block])
    · simpa using hn

theorem routeBit_frame {s t : State} (h : routeBit s = .next t) : BitFrame s t ∧ t.nSame = s.nSame := by
  unfold routeBit at h
  have ifbit : execIfbit s = .next t → BitFrame s t ∧ t.nSame = s.nSame := by
    unfold execIfbit
    split <;> intro h <;> simp only [Host.Outcome.next.injEq] at h <;> subst h
    · exact ⟨.refl s, rfl⟩
    · exact ⟨by constructor <;> simp, rfl⟩
  split at h
  · exact execBitappend_frame h
  · exact ifbit h
  · exact ifbit h

/-- BITDET touches nothing beyond the bit path's own registers and the counter. -/
theorem execBitdet_frame {s t : State} (h : execBitdet s = .next t) : BitFrame s t := by
  rw [execBitdet_eq] at h
  split at h
  · rename_i u hu
    have hf := (routeBit_frame h).1
    unfold detectedState at hu
    split at hu
    · simp only [Option.some.injEq] at hu; subst hu
      exact ⟨hf.1, hf.2, hf.3, hf.4, hf.5, hf.6, hf.7, hf.8, hf.9, hf.10, hf.11, hf.12, hf.13, hf.14, hf.15, hf.16⟩
    · split at hu
      · simp only [Option.some.injEq] at hu; subst hu
        exact ⟨hf.1, hf.2, hf.3, hf.4, hf.5, hf.6, hf.7, hf.8, hf.9, hf.10, hf.11, hf.12, hf.13, hf.14, hf.15, hf.16⟩
      · simp at hu
  · simp only [Host.Outcome.next.injEq] at h; exact h ▸ .refl s

/-! ## What a whole gap step leaves unchanged -/

/-- What gap steps leave as it was: everything but the decoder's own registers and the latches. -/
structure GapFrame (s t : State) : Prop where
  runState : t.runState = s.runState
  faultCode : t.faultCode = s.faultCode
  termReason : t.termReason = s.termReason
  cfg : t.cfg = s.cfg
  runStart : t.runStart = s.runStart
  faults : t.faults = s.faults
  rx : t.rx = s.rx
  stagePort : t.stagePort = s.stagePort
  block : t.work.block = s.work.block

theorem GapFrame.refl (s : State) : GapFrame s s := ⟨rfl, rfl, rfl, rfl, rfl, rfl, rfl, rfl, rfl⟩

theorem GapFrame.trans {s t u : State} (h : GapFrame s t) (k : GapFrame t u) : GapFrame s u :=
  ⟨k.1.trans h.1, k.2.trans h.2, k.3.trans h.3, k.4.trans h.4, k.5.trans h.5, k.6.trans h.6, k.7.trans h.7,
    k.8.trans h.8, k.9.trans h.9⟩

theorem decodeStageOfGap_frame {s t : State} (h : decodeStageOfGap s = .next t) : GapFrame s t := by
  unfold decodeStageOfGap at h
  have bit : execBitdet s = .next t → GapFrame s t := fun h =>
    let f := execBitdet_frame h
    ⟨f.runState, f.faultCode, f.termReason, f.cfg, f.runStart, f.faults, f.rx, f.stagePort, f.block⟩
  split at h
  · split at h
    · simp only [execBrfix, Host.Outcome.next.injEq] at h; subst h; exact ⟨rfl, rfl, rfl, rfl, rfl, rfl, rfl, rfl, rfl⟩
    · rcases execBrauto_cases s with ⟨-, e⟩ | ⟨-, -, e⟩ | ⟨-, -, e⟩ <;> rw [e] at h <;>
        simp only [Host.Outcome.next.injEq] at h <;> subst h <;> exact ⟨rfl, rfl, rfl, rfl, rfl, rfl, rfl, rfl, rfl⟩
  · exact bit h
  · exact bit h

theorem gapStep_frame {g : Nat} {s t : State} (h : gapStep g s = .next t) : GapFrame s t := by
  obtain ⟨u, hu, rfl⟩ := gapStep_eq_next.mp h
  have f := decodeStageOfGap_frame hu
  exact ⟨f.1, f.2, f.3, f.4, f.5, f.6, f.7, f.8, f.9⟩

theorem runGaps_frame {n g : Nat} {s t : State} (h : runGaps n g s = .next t) : GapFrame s t := by
  induction n generalizing g s with
  | zero => simp only [runGaps, Host.Outcome.next.injEq] at h; exact h ▸ .refl s
  | succ n ih =>
    obtain ⟨u, hu, h'⟩ := andThen_eq_next.mp h
    exact (gapStep_frame hu).trans (ih h')

/-- A property that every gap step keeps holds after any number of them (R89). -/
theorem runGaps_induction {P : State → Prop} (hP : ∀ g s t, P s → gapStep g s = .next t → P t) {n g : Nat} {s t : State}
    (h0 : P s) (h : runGaps n g s = .next t) : P t := by
  induction n generalizing g s with
  | zero => simp only [runGaps, Host.Outcome.next.injEq] at h; exact h ▸ h0
  | succ n ih =>
    obtain ⟨u, hu, h'⟩ := andThen_eq_next.mp h
    exact ih (hP _ _ _ h0 hu) h'

/-- A BLOCK that processes its samples: the gap steps on the latched block, and the latches idle again (R38, R84). -/
theorem processBlock_eq_next {xs : List Byte} {s t : State} :
    processBlock xs s = .next t ↔
      ∃ u, runGaps (s.cfg.num .g) 0 { s with work := { Work.idle with block := xs } } = .next u ∧
        t = { u with work := Work.idle } := by
  unfold processBlock
  rw [andThen_eq_next]
  simp [eq_comm]

end Sys2Proof.Machine
end

