-- ==== Sys2Proof/Machine/Assembler.lean ====
section
/-!
DEFINITION. The assembler syntax of a host program and its pseudo-instructions START, REP and FILL (R75, R76), down to the
words of its transactions. It is the host's; no step of the core reads it. Log entry 17 says what the syntax leaves open.
-/

namespace Sys2Proof.Assembler

/-- The tokens of a line; spaces, tabs and commas separate, and a comment runs from `;` to the line's end (R75). -/
inductive Token
  | word (cs : List Char)
  | equals
  | openBrace
  | closeBrace
  | newline
  deriving DecidableEq, Repr

/-- A name for a BLOCK of given samples, as 95_test_vectors.md section 3 uses them. -/
structure BlockName where
  name : List Char
  samples : List Byte
  deriving DecidableEq, Repr

/-- The word collected so far, in reverse, put before the tokens that follow it. -/
def flush (acc : List Char) (ts : List Token) : List Token :=
  match acc with
  | [] => ts
  | c :: cs => .word (c :: cs).reverse :: ts

/-- The tokens of a text, by character code: line feed 10, `;` 59, `=` 61, the braces 123 and 125, and the separators
space 32, tab 9, carriage return 13 and comma 44. -/
def tokens : Bool → List Char → List Char → List Token
  | _, acc, [] => flush acc []
  | true, _, c :: cs => if c.toNat = 10 then .newline :: tokens false [] cs else tokens true [] cs
  | false, acc, c :: cs =>
    match c.toNat with
    | 59 => flush acc (tokens true [] cs)
    | 10 => flush acc (.newline :: tokens false [] cs)
    | 61 => flush acc (.equals :: tokens false [] cs)
    | 123 => flush acc (.openBrace :: tokens false [] cs)
    | 125 => flush acc (.closeBrace :: tokens false [] cs)
    | 32 => flush acc (tokens false [] cs)
    | 9 => flush acc (tokens false [] cs)
    | 13 => flush acc (tokens false [] cs)
    | 44 => flush acc (tokens false [] cs)
    | _ => tokens false (c :: acc) cs

/-! ## Numbers and register names -/

/-- The value of a digit in `base` (10 or 16). -/
def digit (base : Nat) (c : Char) : Option Nat :=
  let n := c.toNat
  let v := if 48 ≤ n ∧ n ≤ 57 then n - 48
    else if 65 ≤ n ∧ n ≤ 70 then n - 55
    else if 97 ≤ n ∧ n ≤ 102 then n - 87
    else base
  if v < base then some v else none

/-- The number that digits give after `acc`. -/
def digits (base : Nat) : Nat → List Char → Option Nat
  | acc, [] => some acc
  | acc, c :: cs => (digit base c).bind fun v => digits base (acc * base + v) cs

/-- A number, decimal or `0x` hexadecimal (R75). -/
def number : List Char → Option Nat
  | [] => none
  | ['0', 'x'] => none
  | '0' :: 'x' :: cs => digits 16 0 cs
  | c :: cs => digits 10 0 (c :: cs)

/-- A number below `2^w`. -/
def bits (w : Nat) (cs : List Char) : Option (BitVec w) :=
  (number cs).bind fun n => if n < 2 ^ w then some (BitVec.ofNat w n) else none

/-- A letter as a capital: register names are case-insensitive (R75). -/
def capital (c : Char) : Char := if 97 ≤ c.toNat ∧ c.toNat ≤ 122 then Char.ofNat (c.toNat - 32) else c

/-- The register names of R29, in index order. -/
def registerNames : List (List Char) :=
  ["G", "A", "V", "THRESH", "D", "W", "PARITY_EN", "PARITY_ODD", "AUTO_EN", "FIXED_BITRATE", "TOL_NUM", "TOL_DEN",
    "STOP_COUNT", "DET_LO", "DET_HI", "MAX_MSG"].map String.toList

/-- A CFGW's first operand: a register name of R29, or an index (R75). -/
def register (cs : List Char) : Option (BitVec 8) :=
  match registerNames.idxOf? (cs.map capital) with
  | some i => some (BitVec.ofNat 8 i)
  | none => bits 8 cs

/-! ## Lines -/

/-- The words before the next token of another kind. -/
def leadingWords : List Token → List (List Char) × List Token
  | .word w :: ts => let r := leadingWords ts; (w :: r.1, r.2)
  | .equals :: ts => ([], .equals :: ts)
  | .openBrace :: ts => ([], .openBrace :: ts)
  | .closeBrace :: ts => ([], .closeBrace :: ts)
  | .newline :: ts => ([], .newline :: ts)
  | [] => ([], [])

/-- The operands of a BLOCK line, `FILL n, v` standing for n operands v (R75, R76). -/
def samples : List (List Char) → Option (List Byte)
  | [] => some []
  | ['F', 'I', 'L', 'L'] :: n :: v :: rest =>
    (number n).bind fun k => (bits 8 v).bind fun b => (samples rest).map fun bs => List.replicate k b ++ bs
  | w :: rest => (bits 8 w).bind fun b => (samples rest).map fun bs => b :: bs

/-- The pairs `name = value` of a START, up to its closing brace, as CFGWs in the order written (R76). -/
def startPairs : List Token → Option (List Instr × List Token)
  | .newline :: ts => startPairs ts
  | .closeBrace :: ts => some ([], ts)
  | .word n :: .equals :: .word v :: ts =>
    (register n).bind fun i => (bits 32 v).bind fun x => (startPairs ts).map fun r => (.cfgw i x :: r.1, r.2)
  | _ => none

/-- The BLOCK of a list of operands. DESIGN CHOICE (assumption 17): 2^24 operands or more do not fit LEN (R65), R75 and R76 say
nothing of such a line, and the text is rejected. -/
def blockLine (bs : List Byte) : Option (List Instr) :=
  if (Instr.block bs).wf then some [.block bs] else none

/-- One line that is not a REP (R75, R76): its transactions and what follows it. -/
def line (names : List BlockName) (w : List Char) (ts : List Token) : Option (List Instr × List Token) :=
  let args := leadingWords ts
  if w = "RESET".toList then some ([.reset], ts)
  else if w = "CANCEL".toList then some ([.cancel], ts)
  else if w = "END".toList then
    match args.1 with
    | [] => some ([.endSession false], args.2)
    | [r] =>
      if r = "EOS".toList then some ([.endSession false], args.2)
      else if r = "ERR".toList then some ([.endSession true], args.2)
      else none
    | _ => none
  else if w = "CFGW".toList then
    match args.1 with
    | [r, v] => (register r).bind fun i => (bits 32 v).map fun x => ([.cfgw i x], args.2)
    | _ => none
  else if w = "BLOCK".toList then ((samples args.1).bind blockLine).map fun is => (is, args.2)
  else if w = "START".toList then
    match ts with
    | .openBrace :: ts' => (startPairs ts').map fun r => (r.1 ++ [.reset], r.2)
    | _ => none
  else ((names.find? fun b => b.name == w).bind fun b => blockLine b.samples).map fun is => (is, ts)

/-- A line ends at a line feed, at the closing brace of the REP it stands in, or at the end of the text (R75). -/
def atLineEnd : List Token → Bool
  | [] => true
  | .newline :: _ => true
  | .closeBrace :: _ => true
  | _ => false

/-- The lines up to a closing brace or the end; the fuel bounds the number of tokens. `REP n` writes its lines n times (R76). -/
def lines (names : List BlockName) : Nat → List Token → Option (List Instr × List Token)
  | 0, _ => none
  | _ + 1, [] => some ([], [])
  | _ + 1, .closeBrace :: ts => some ([], .closeBrace :: ts)
  | n + 1, .newline :: ts => lines names n ts
  | n + 1, .word ['R', 'E', 'P'] :: .word k :: .openBrace :: ts =>
    (number k).bind fun m =>
      match lines names n ts with
      | some (body, .closeBrace :: rest) =>
        if atLineEnd rest then
          (lines names n rest).map fun r => ((List.replicate m body).flatten ++ r.1, r.2)
        else none
      | _ => none
  | n + 1, .word w :: ts =>
    match line names w ts with
    | some (is, rest) => if atLineEnd rest then (lines names n rest).map fun r => (is ++ r.1, r.2) else none
    | none => none
  | _ + 1, _ => none

/-- The transactions of a host program, or none where the text is no program (R75, R76) or a BLOCK does not fit LEN
(`blockLine`). -/
def program (names : List BlockName) (text : String) : Option (List Instr) :=
  let ts := tokens false [] text.toList
  match lines names (ts.length + 1) ts with
  | some (is, []) => some is
  | _ => none

/-- The words of a host program (R62 to R69). -/
def programWords (names : List BlockName) (text : String) : Option (List Word) :=
  (program names text).map fun is => is.flatMap hostWords

end Sys2Proof.Assembler
end

