-- ==== Sys2Proof/Tests/Slice0.lean ====
section
/-!
SUPPORT. Tests of the model on the vectors of 95_test_vectors.md, and for every statement of Obligations.lean that has
hypotheses a state and operands that meet them, clause by clause.
-/

namespace Sys2Proof.Tests

open Sys2Proof Sys2Proof.Machine

/-! ## Helpers -/

/-- The result is a next state in which `f` reads `x`. -/
def gives {β : Type} [DecidableEq β] (r : Result) (f : State → β) (x : β) : Bool :=
  match r with
  | .next t => decide (f t = x)
  | .fault _ => false
  | .refused _ => false

/-- Configuration TC1 (95_test_vectors.md section 2). -/
def tc1 : ConfigRegs where
  g := some 1
  a := some 4
  v := some 2
  thresh := some 10
  d := some 2
  w := some 12
  parityEn := some 1
  parityOdd := some 0
  autoEn := some 0
  fixedBitrate := some 4
  tolNum := some 1
  tolDen := some 2
  stopCount := none
  detLo := none
  detHi := none
  maxMsg := some 16

/-- Configuration TC2 (95_test_vectors.md section 2). -/
def tc2 : ConfigRegs := { tc1 with autoEn := some 1, stopCount := some 6, detLo := some 2, detHi := some 6 }

/-- Power-on with a configuration written. -/
def halted (c : ConfigRegs) : State := { State.reset with cfg := c }

/-- The launch premise (R167): right after a successful RESET. -/
def launched (c : ConfigRegs) : State := startSession (halted c)

/-- In Frame with an opened stream, bitrate 4 and tolerance 2. -/
def framed (c : ConfigRegs) (bb : List Bool) : State :=
  { launched c with decoderState := .frame, streamOpened := true, bitrate := 4, tolerance := 2, bb := bb }

/-- Slots written as the vectors write them. -/
def slots (ns : List Nat) : List Bool := ns.map (fun n => n == 1)

/-- Faulted. -/
def broken : State := raiseFault .illegalTransaction (launched tc1)

/-- FLAT (95_test_vectors.md section 3). -/
def flat : List Byte := List.replicate 8 100

/-- EDGE (95_test_vectors.md section 3). -/
def edgeBlock : List Byte := [0, 0, 0, 0, 255, 255, 255, 255]

/-! ## Well-formedness: each check refuses an ill-formed term (R65, R72) -/

theorem test_wf_index_15 : (Instr.cfgw 15 0).wf = true := by decide

theorem test_wf_index_16 : (Instr.cfgw 16 0).wf = false := by decide

theorem test_wf_length : (Instr.block flat).wf = true := by decide

theorem test_wf_too_long : (Instr.block (List.replicate 16777216 0)).wf = false := by
  simp only [Instr.wf, List.length_replicate]
  decide

/-! ## Decoding: words written out from the spec (V70 to V80, R70) -/

theorem test_decode_reset : decode [0x00000000] = .ok .reset [] := by decide

theorem test_decode_cfgw_d : decode [0x00000401, 0x00000002] = .ok (.cfgw 4 2) [] := by decide

theorem test_decode_cfgw_max_msg : decode [0x00000F01, 0x00000010] = .ok (.cfgw 15 16) [] := by decide

theorem test_decode_cfgw_16 : decode [0x00001001, 0x00000007] = .illegal .reservedIndex [] := by decide

theorem test_decode_flat : decode [0x00000802, 0x64646464, 0x64646464] = .ok (.block flat) [] := by decide

theorem test_decode_edge : decode [0x00000802, 0x00000000, 0xFFFFFFFF] = .ok (.block edgeBlock) [] := by decide

theorem test_decode_block_3 : decode [0x00000302, 0x00030201] = .ok (.block [1, 2, 3]) [] := by decide

theorem test_decode_block_0 : decode [0x00000002, 0x00000004] = .ok (.block []) [0x00000004] := by decide

/-- V77: the encoding is legal, and 4194304 payload words follow. -/
theorem test_decode_block_longest : headerProblem 0xFFFFFF02 = none ∧ payloadWords 0xFFFFFF02 = 4194304 := by decide

theorem test_decode_end_eos : decode [0x00000003] = .ok (.endSession false) [] := by decide

theorem test_decode_end_err : decode [0x00000013] = .ok (.endSession true) [] := by decide

theorem test_decode_cancel : decode [0x00000004] = .ok .cancel [] := by decide

theorem test_decode_reserved_ops :
    ((List.range 11).all fun k => decode [BitVec.ofNat 32 (k + 5)] == .illegal .reservedOp []) = true := by decide

/-- V69, V69b. -/
theorem test_decode_must_be_zero :
    ([0x00000010, 0x00000100, 0x00000023, 0x00010001, 0x00000812].all fun h =>
      headerProblem h == some .mustBeZero) = true := by decide

/-- Check order (R71): OP before the must-be-zero bits, and those before the index. -/
theorem test_decode_check_order :
    headerProblem 0x00000015 = some .reservedOp ∧ headerProblem 0x00011001 = some .mustBeZero := by decide

theorem test_decode_stage_codes :
    [0x10, 0x11, 0x12, 0x20, 0x21].map decodeStage =
      [some .avg, some .gapdet, some .debounce, some .brfix, some .brauto] := by decide

theorem test_decode_stage_codes_bit :
    [0x30, 0x31, 0x32, 0x33, 0x34, 0x35, 0x36, 0x37, 0x38, 0x39].map decodeStage =
      [some .bitdet, some .gapend, some .bitappend, some .bytedone, some .delimOpen, some .delimClose, some .payload,
        some .discard, some .msgemit, some .ifbit] := by decide

theorem test_decode_stage_none : [0x00, 0x13, 0x22, 0x3A, 0xFF].map decodeStage = [none, none, none, none, none] := by
  decide

theorem test_table_word_cfgw : decodeTableWord 64 0x0000000200000401 = some (.cfgw 4 2) := by decide

theorem test_table_word_block : decodeTableWord 32 0x00000502 = some (.block [0, 0, 0, 0, 0]) := by decide

theorem test_table_word_illegal : decodeTableWord 32 0x00000005 = none := by decide

theorem test_encode_cfgw : encode (.cfgw 4 2) = .host [0x00000401, 0x00000002] := by decide

theorem test_encode_block : encode (.block [1, 2, 3]) = .host [0x00000302, 0x00030201] := by decide

/-- V81: the output record of Msg(1, "HI"). -/
theorem test_output_record : outputRecord ⟨1, [0x48, 0x49]⟩ = [0x00000001, 0x00000002, 0x00004948] := by decide

/-! ## The step -/

theorem test_fetch_cfgw :
    gives (step (State.reset.withFetchWord 64 0x0000000200000401)) (fun t => (t.cfg.d, t.rx)) (some 2, []) = true := by
  decide

theorem test_fetch_stage : gives (step ((launched tc1).withFetchWord 8 0x34)) (·.streamOpened) true = true := by decide

/-! ## Host transactions and faults (V54 to V69c) -/

/-- V56, V67. -/
theorem test_reset_starts : gives (exec .reset { framed tc1 [] with seq := 2, runState := .faulted })
    (fun t => (t.runState, t.seq, t.db.length, t.streamOpened)) (.running, 1, 4, false) = true := by decide

/-- V55. -/
theorem test_reset_config_error : gives (exec .reset State.reset) (fun t => (t.runState, t.faultCode))
    (.faulted, .configError) = true := by decide

/-- V68: W >= 9 is needed with parity. -/
theorem test_legal_width : configLegal tc1 = true ∧ configLegal { tc1 with w := some 8 } = false := by decide

/-- V68b, V68c, V68d. -/
theorem test_legal_window : configLegal tc2 = true ∧ configLegal { tc2 with detHi := some 2 } = false ∧
    configLegal { tc1 with tolNum := some 3 } = false ∧ configLegal { tc1 with fixedBitrate := some 0 } = false := by
  decide

/-- V68e, V68f. -/
theorem test_legal_ranges : configLegal { tc1 with g := some 0x800000 } = false ∧
    configLegal { tc1 with parityEn := some 2 } = false ∧ configLegal { tc1 with d := some 1023 } = false ∧
    configLegal { tc1 with maxMsg := some 70000 } = false := by decide

/-- V57: a write while Running is illegal. -/
theorem test_cfgw_running : gives (exec (.cfgw 4 3) (launched tc1)) (fun t => (t.runState, t.faultCode, t.cfg.d))
    (.faulted, .illegalTransaction, some 2) = true := by decide

/-- V59: a write while Faulted is accepted. -/
theorem test_cfgw_faulted : gives (exec (.cfgw 4 3) broken) (fun t => (t.runState, t.cfg.d)) (.faulted, some 3) = true := by
  decide

/-- V62: a block of 7 samples. -/
theorem test_block_short : gives (exec (.block [1, 2, 3, 4, 5, 6, 7]) { launched tc1 with nSame := 5 })
    (fun t => (t.runState, t.termReason, t.nSame)) (.halted, .acqError, 5) = true := by decide

/-- V25: gap 0 of a session. -/
theorem test_block_gap_0 : gives (exec (.block flat) (launched tc1))
    (fun t => (t.decoderState, t.bitrate, t.tolerance, t.nSame, t.db)) (.frame, 4, 2, 1, slots [1, 0, 0, 0]) = true := by
  decide

/-- V65. -/
theorem test_end_err : gives (exec (.endSession true) (framed tc1 [])) (fun t => (t.runState, t.termReason, t.out))
    (.halted, .acqError, []) = true := by decide

/-- V61. -/
theorem test_end_halted : gives (exec (.endSession false) State.reset) (fun t => (t.runState, t.faultCode))
    (.faulted, .illegalTransaction) = true := by decide

/-- V66: the message in progress is dropped, the sequence number kept. -/
theorem test_cancel_running :
    gives (exec .cancel { framed tc1 (slots [1, 0, 0, 1]) with msgBuf := [0x43], seq := 2 })
      (fun t => (t.msgBuf, t.termReason, t.seq, t.bbCnt)) ([], .cancelled, 2, 4) = true := by decide

/-- V60. -/
theorem test_cancel_halted : gives (exec .cancel (halted tc1)) id (halted tc1) = true := by decide

/-- V69, V69c: an illegal header, and the same while Faulted. -/
theorem test_illegal_header :
    gives (step { halted tc1 with rx := [0x00000010] }) (fun t => (t.runState, t.faultCode, t.rx))
      (.faulted, .illegalTransaction, []) = true ∧
    gives (step { broken with rx := [0x00000010] }) id broken = true := by decide

/-! ## Signal path (V1 to V23) -/

/-- V1 and V4. -/
theorem test_averages : gapAverages { tc1 with a := some 1, v := some 2 } [0xFF, 0xFF] 0 = [510] ∧
    gapAverages { tc1 with g := some 2, a := some 2 } [1, 2, 3, 4, 5, 6, 7, 8] 1 = [11, 15] := by decide

/-- V3. -/
theorem test_avg : gives (exec .avg { launched tc1 with work.block := edgeBlock }) (·.work.avg) [0, 0, 510, 510] = true := by
  decide

/-- V8, V9, V9b, V12. -/
theorem test_gapdet : (subBit [510, 510, 0, 0] 10, subBit [0, 10] 10, subBit [0, 10] 11, subBit [77] 1, subBit [77] 0) =
    (false, false, true, true, false) := by decide

/-- V6. -/
theorem test_gapdet_step : gives (exec .gapdet { launched tc1 with work.avg := [200, 200, 200, 200] }) (·.work.sub) true = true := by
  decide

/-- V18. -/
theorem test_debounce_run : delivered (slots [0, 0, 0, 0]) (slots [1, 1, 1, 0, 0, 0, 0, 0, 0]) =
    slots [0, 0, 0, 1, 1, 1, 0, 0, 0] := by decide

/-- V17 and V19: the correction. -/
theorem test_debounce_spike : feed (slots [0, 0, 0, 0]) (slots [1, 0]) = slots [0, 0, 0, 0] ∧
    feed (slots [0, 0, 0, 0]) (slots [1, 1, 0]) = slots [0, 0, 0, 0] := by decide

/-! ## Bitrate estimator (V25 to V30b) -/

/-- V26. -/
theorem test_brfix : gives (exec .brfix (launched { tc1 with fixedBitrate := some 5 }))
    (fun t => (t.bitrate, t.tolerance, t.decoderState)) (5, 3, .frame) = true := by decide

/-- V27, V27b. -/
theorem test_tol : [1, 2, 3, 4, 5, 6, 7].map (tol tc1) = [1, 1, 2, 2, 3, 3, 4] ∧
    tol { tc1 with tolNum := some 3, tolDen := some 4 } 7 = 5 := by decide

/-- V28. -/
theorem test_brauto_full :
    gives (exec .brauto { launched tc2 with est := [9, 5, 5, 5, 5], nSame := 5, work.d := true })
      (fun t => (t.est, t.bitrate, t.tolerance, t.decoderState, t.nSame)) ([9, 5, 5, 5, 5, 5], 5, 3, .frame, 0) = true := by
  decide

/-- V29, V29b: ties upward, and a third. -/
theorem test_window_mean : windowMean { tc2 with stopCount := some 3, detLo := some 1, detHi := some 3 } [7, 4, 5] = 5 ∧
    windowMean { tc2 with stopCount := some 4, detLo := some 1, detHi := some 4 } [7, 4, 4, 5] = 4 := by decide

/-! ## Bit detection (V31 to V35) -/

/-- V31 and V32: an inferred bit is stored at `n_same` 7, none at 6. -/
theorem test_bitdet_timeout :
    gives (exec .bitdet { framed tc1 [] with prevD := true, work.d := true, nSame := 7 })
      (fun t => (t.bb, t.nSame)) ([true], 2) = true ∧
    gives (exec .bitdet { framed tc1 [] with prevD := true, work.d := true, nSame := 6 })
      (fun t => (t.bb, t.nSame)) ([], 6) = true := by decide

/-- V34: the edge comes first. -/
theorem test_bitdet_edge : gives (exec .bitdet { framed tc1 [] with prevD := true, nSame := 7 })
    (fun t => (t.bb, t.nSame)) ([false], 0) = true := by decide

/-- V35: the counter saturates. -/
theorem test_gapend : gives (exec .gapend { framed tc1 [] with nSame := 0xFFFFFFFF, work.d := true })
    (fun t => (t.nSame, t.prevD)) (0xFFFFFFFF, true) = true ∧
    gives (exec .gapend { framed tc1 [] with nSame := 6 }) (·.nSame) 7 = true := by decide

/-! ## Byte assembly (V37 to V51) -/

/-- V37. -/
theorem test_bytedone_source : byteOf (slots [1, 0, 1, 0, 0, 0, 0, 0, 1, 0, 0, 0]) = 5 ∧
    parityOf (slots [1, 0, 1, 0, 0, 0, 0, 0, 1, 0, 0, 0]) = false ∧
    gives (exec .bytedone (framed tc1 (slots [1, 0, 1, 0, 0, 0, 0, 0, 1, 0, 0, 0]))) (·.msgBuf) [0x3F] = true := by decide

/-- V47: a delimiter whatever its parity. -/
theorem test_bytedone_delimiter :
    gives (exec .bytedone { framed tc1 (slots [1, 1, 1, 1, 1, 1, 1, 1, 0, 1, 1, 1]) with msgBuf := [0x48, 0x49] })
      (fun t => (t.out, t.seq, t.msgBuf, t.decoderState, t.bbCnt)) ([⟨1, [0x48, 0x49]⟩], 2, [], .interframe, 0) = true := by
  decide

/-- The twelfth bit decodes the byte in the same operation (section 2.6; V38). -/
theorem test_bitappend_last :
    gives (exec .bitappend { framed tc1 (slots [0, 0, 0, 1, 0, 0, 1, 0, 0, 1, 1]) with work.bit := true })
      (fun t => (t.msgBuf, t.bbCnt)) ([0x48], 0) = true := by decide

theorem test_bitappend_next : gives (exec .bitappend { framed tc1 [false] with work.bit := true }) (·.bb) [false, true] = true := by
  decide

/-- V40 and V41: the odd convention; V43 to V45b: the printable range. -/
theorem test_payload_chars :
    payloadChar { tc1 with parityOdd := some 1 } 0x48 false true = 0x48 ∧
    payloadChar { tc1 with parityOdd := some 1 } 0x48 false false = 0x3F ∧
    payloadChar tc1 0x20 true true = 0x20 ∧ payloadChar tc1 0x7E false false = 0x7E ∧
    payloadChar tc1 0x7F true true = 0x3F ∧ payloadChar { tc1 with parityEn := some 0 } 0x1F true false = 0x3F := by decide

/-- V49: a full buffer drops the character. -/
theorem test_payload_full :
    gives (exec .payload { framed { tc1 with maxMsg := some 3 } [] with msgBuf := [0x41, 0x42, 0x43], work.byte := 0x44 })
      (·.msgBuf) [0x41, 0x42, 0x43] = true := by decide

/-- V46. -/
theorem test_delim_open : gives (exec .delimOpen (launched tc1)) (fun t => (t.streamOpened, t.out)) (true, []) = true := by decide

/-- V50b: an empty message is emitted too. -/
theorem test_delim_close : gives (exec .delimClose (framed tc1 [])) (fun t => (t.out, t.seq, t.decoderState))
    ([⟨1, []⟩], 2, .interframe) = true := by decide

/-- V48. -/
theorem test_discard : gives (exec .discard (launched tc1)) id (launched tc1) = true := by decide

theorem test_msgemit : gives (exec .msgemit { framed tc1 [] with seq := 7, msgBuf := [0x41] })
    (fun t => (t.out, t.seq, t.msgBuf, t.decoderState)) ([⟨7, [0x41]⟩], 8, [], .frame) = true := by decide

/-- V51. -/
theorem test_ifbit :
    gives (exec .ifbit { framed tc1 [] with decoderState := .interframe, work.bit := true }) (·.decoderState) .interframe = true ∧
    gives (exec .ifbit { framed tc1 [] with decoderState := .interframe }) (fun t => (t.decoderState, t.bb)) (.frame, []) = true := by
  decide

/-! ## The assembler (R75, R76) -/

theorem test_assembler_lines : Assembler.programWords [] "CFGW max_msg, 0x10\nBLOCK FILL 3, 7\nEND ERR" =
      some [0x00000F01, 0x00000010, 0x00000302, 0x00070707, 0x00000013] := by decide

/-- V76 and one beyond LEN: the line is rejected (assumption 17). -/
theorem test_assembler_block_length : Assembler.blockLine [1, 2, 3] = some [.block [1, 2, 3]] ∧
    Assembler.blockLine (List.replicate 16777216 0) = none := by
  refine ⟨by decide, ?_⟩
  simp only [Assembler.blockLine, Instr.wf, List.length_replicate]
  decide

/-! ## Witnesses: every statement with hypotheses has a state and operands that meet them, clause by clause -/

theorem test_witness_DecodeEncodeAgree :
    (Instr.cfgw 0 0).wf = true ∧ (Instr.cfgw 15 0xFFFFFFFF).wf = true ∧ (Instr.block []).wf = true ∧
      (Instr.block [1, 2, 3, 4, 5]).wf = true ∧ (Instr.block flat).isTransaction = true ∧ Instr.ifbit.wf = true := by
  decide

theorem test_witness_IllegalEncodingFaults :
    (State.reset.stagePort = none ∧ decode [0x00001001, 7] = .illegal .reservedIndex []) ∧
      State.reset.runState ≠ .faulted ∧ broken.stagePort = none ∧ broken.runState = .faulted := by decide

theorem test_witness_OperandsFromWords :
    ((0x001#32).toNat % 256 = 1 ∧ (0x001#32).toNat < 4096) ∧ ((0xF01#32).toNat % 256 = 1 ∧ (0xF01#32).toNat < 4096) ∧
      (0x03#32).toNat = 3 ∧ (0x13#32).toNat = 19 ∧
      ((0x00000002#32).toNat % 256 = 2 ∧ ([] : List Word).length = ((0x00000002#32).toNat / 256 + 3) / 4) ∧
      ((0x00000502#32).toNat % 256 = 2 ∧ [1#32, 2#32].length = ((0x00000502#32).toNat / 256 + 3) / 4) := by decide

theorem test_witness_OutputRecordPacksText : (⟨1, [0x48, 0x49]⟩ : Msg).text.length < 65536 := by decide

theorem test_witness_StepRunsTransaction :
    (halted tc1).stagePort = none ∧ decode (({ halted tc1 with rx := [0, 4] } : State).rx) = .ok .reset [4] := by decide

theorem test_witness_StepRunsStageCode :
    let s : State := { launched tc1 with stagePort := some 0x30 }
    let h : State := { halted tc1 with stagePort := some 0x30 }
    (s.stagePort = some 0x30 ∧ s.runState = .running ∧ decodeStage 0x30 = some .bitdet) ∧
      h.stagePort = some 0x30 ∧ h.runState ≠ .running := by decide

theorem test_witness_IdleStepChangesNothing :
    (State.reset.stagePort = none ∧ State.reset.rx = []) ∧
      ((0x00000502#32).toNat % 256 = 2 ∧ [1#32].length < ((0x00000502#32).toNat / 256 + 3) / 4) ∧
      ((0x00000001#32).toNat % 256 = 1 ∧ (0x00000F01#32).toNat % 256 = 1 ∧ (0x00000F01#32).toNat < 4096) := by decide

theorem test_witness_ResetStartsSession : configLegal (halted tc1).cfg = true ∧ configLegal State.reset.cfg = false := by
  decide

theorem test_witness_CfgwWritesOneRegister :
    (16 ≤ (16#8).toNat ∧ broken.runState = .faulted) ∧ (16 ≤ (255#8).toNat ∧ State.reset.runState ≠ .faulted) ∧
      ((15#8).toNat < 16 ∧ (launched tc1).runState = .running) ∧
      ((15#8).toNat < 16 ∧ State.reset.runState ≠ .running) ∧ ((0#8).toNat < 16 ∧ broken.runState ≠ .running) := by
  decide

theorem test_witness_EndTerminates :
    (launched tc1).runState = .running ∧ State.reset.runState = .halted ∧ broken.runState = .faulted := by decide

theorem test_witness_CancelTerminates : (launched tc1).runState = .running ∧ broken.runState ≠ .running := by decide

theorem test_witness_BlockOfWrongLength :
    let s := launched tc1
    broken.runState = .faulted ∧ State.reset.runState = .halted ∧
      (s.runState = .running ∧ s.cfg.num .g * s.cfg.num .a * s.cfg.num .v < (0 :: flat).length) ∧
      (s.runState = .running ∧ flat.tail.length < s.cfg.num .g * s.cfg.num .a * s.cfg.num .v) := by decide

/-- The session invariant right after RESET. -/
theorem launched_sessionInv : SessionInv (launched tc1) := by constructor <;> decide

theorem test_witness_BlockRunsItsGaps :
    let s := launched tc1
    s.runState = .running ∧ SessionInv s ∧ s.seqSpent = false ∧ s.seq.toNat + s.cfg.num .g ≤ 2 ^ 32 ∧
      flat.length = s.cfg.num .g * s.cfg.num .a * s.cfg.num .v :=
  ⟨by decide, launched_sessionInv, by decide, by decide, by decide⟩

/-- The stages before the decoder's of a gap step of EDGE, from a state. -/
def beforeDecoder (s : State) : State :=
  { s with
    db := debounced s.db false
    work := { s.work with
      block := edgeBlock, avg := [0, 0, 510, 510], sub := false, d := oldest (debounced s.db false) } }

/-- In each decoder state and mode: BRFIX, BRAUTO and BITDET. -/
theorem test_witness_GapStepRunsStages :
    [launched tc1, launched tc2, framed tc1 []].all (fun s =>
      gives (exec .avg { s with work.block := edgeBlock, work.gap := 0 }) (fun t => gives (exec .gapdet t)
        (fun u => gives (exec .debounce u) id (beforeDecoder s)) true) true &&
      gives (exec (if (beforeDecoder s).decoderState = .bitrateDetect then
        (if (beforeDecoder s).cfg.num .autoEn = 0 then .brfix else .brauto) else .bitdet) (beforeDecoder s))
        (·.runState) .running) = true := by decide

/-- Two blocks of two gaps that differ in gap 1 alone. -/
theorem test_witness_GapOwnsItsSamples :
    let s := launched { tc1 with g := some 2 }
    let xs := flat ++ flat
    let ys := flat ++ edgeBlock
    (0 + 1) * (s.cfg.num .a * s.cfg.num .v) ≤ xs.length ∧ (0 + 1) * (s.cfg.num .a * s.cfg.num .v) ≤ ys.length ∧
      (∀ i, 0 * (s.cfg.num .a * s.cfg.num .v) ≤ i → i < (0 + 1) * (s.cfg.num .a * s.cfg.num .v) →
        xs.getD i 0 = ys.getD i 0) ∧
      gives (gapStep 0 { s with work.block := xs }) (·.decoderState) .frame = true := by
  refine ⟨by decide, by decide, fun i _ hi => ?_, by decide⟩
  have h8 : i < 8 := hi
  interval_cases i <;> decide

theorem test_witness_FaultedIgnores :
    let s : State := { broken with rx := [0x00000003] }
    (s.runState = .faulted ∧ (Instr.endSession false).isTransaction = true ∧ Instr.endSession false ≠ .reset ∧
      16 ≤ (16#8).toNat) ∧ s.stagePort = none ∧ decode s.rx = .ok (.endSession false) [] := by decide

theorem test_witness_FaultsArePrecise :
    (Instr.reset.isTransaction = true ∧ gives (exec .reset State.reset) (fun t => decide (t.faults ≠ State.reset.faults)) true = true) ∧
      Instr.bitdet.isTransaction = false ∧ gives (exec .bitdet (framed tc1 [])) id (framed tc1 []) = true := by decide

/-- The next gap step of FLAT decodes a closing delimiter. -/
def closing : State := { framed tc1 (slots [1, 1, 1, 1, 1, 1, 1, 1, 0, 1, 1]) with prevD := true, nSame := 3 }

theorem test_witness_OnlyOverflowRefuses :
    exec .msgemit { framed tc1 [] with seqSpent := true } = .refused .sequenceOverflow ∧
      exec (.block flat) { closing with seqSpent := true } = .refused .sequenceOverflow := ⟨rfl, rfl⟩

theorem test_witness_ConfigConstantInSession :
    let s : State := { launched tc1 with rx := [0x00000401, 0x00000003] }
    s.runState = .running ∧ gives (step s) (·.runState) .faulted = true := by decide

theorem test_witness_HistoryOnlyGrows :
    gives (step { broken with rx := [0] }) (·.faults) [.illegalTransaction] = true := by decide

theorem test_witness_OnlyBlocksEmit :
    (Instr.block flat).isTransaction = true ∧ gives (exec (.block flat) closing) (·.out) [⟨1, []⟩] = true ∧
      closing.out ≠ [⟨1, []⟩] := by decide

theorem test_witness_LifecycleTable :
    [Instr.reset, .cfgw 0 1, .cfgw 15 1, .block [], .block flat, .block (0 :: flat), .endSession true, .cancel].all (fun i =>
      i.isTransaction && i.wf && [halted tc1, launched tc1, broken].all fun s => gives (exec i s) (·.cfg.d) (some 2)) = true := by
  decide

theorem test_witness_StepKeepsMachineInv :
    MachineInv { launched tc1 with rx := [0x00000004] } ∧
      gives (step { launched tc1 with rx := [0x00000004] }) (·.runState) .halted = true := by
  refine ⟨?_, by decide⟩
  constructor
  · exact fun _ => by constructor <;> decide
  all_goals decide

/-- The session invariant meets each decoder state. -/
theorem test_witness_SessionInv :
    SessionInv (launched tc1) ∧ SessionInv (launched tc2) ∧ SessionInv (framed tc1 (slots [1, 0, 1])) ∧
      SessionInv { framed tc1 [] with decoderState := .interframe, nSame := 7 } := by
  refine ⟨launched_sessionInv, ?_, ?_, ?_⟩ <;> constructor <;> decide

theorem test_witness_AvgSumsWindows :
    let s : State := { launched tc1 with work.block := flat }
    (s.work.gap + 1) * (s.cfg.num .a * s.cfg.num .v) ≤ s.work.block.length := by decide

theorem test_witness_DebounceShiftsAndCorrects :
    let s : State := { launched tc1 with db := slots [0, 1], work.sub := true }
    let t : State := { launched tc1 with work.sub := true }
    (2 ≤ s.db.length ∧ s.work.sub ≠ s.db.getD (s.db.length - 2) false) ∧
      (2 ≤ t.db.length ∧ t.work.sub ≠ t.db.getD (t.db.length - 2) false) ∧
      (2 ≤ (launched tc1).db.length ∧
        (launched tc1).work.sub = (launched tc1).db.getD ((launched tc1).db.length - 2) false) := by decide

theorem test_witness_SpikeNeverDelivered :
    (1 ≤ 1) ∧ delivered (slots [0, 0, 0]) (slots [0, 1, 0]) = slots [0, 0, 0] := by decide

/-- One change, at step 2: no two changes can be too close. -/
theorem test_witness_SustainedLevelsPass :
    let x : Nat → Bool := fun i => decide (2 ≤ i)
    ∀ i j, i < j → (x i ≠ if i = 0 then false else x (i - 1)) → x j ≠ x (j - 1) → i + 3 + 1 ≤ j := by
  intro x i j h hi hj
  have h2 : i = 2 := by
    by_cases h0 : i = 0
    · simp [x, h0] at hi
    · simp [x, h0] at hi; omega
  have h3 : j = 2 := by
    simp [x] at hj; omega
  omega

theorem test_witness_WarmupDeliversZero :
    (delivered (List.replicate (2 + 2) false) (slots [1, 1, 1, 1])).take (2 + 1) = slots [0, 0, 0] := by decide

theorem test_witness_BrfixAdoptsConfigured :
    configLegal (launched tc1).cfg = true ∧ (launched tc1).cfg.num .autoEn = 0 := by decide

/-- TC2 with four, and with five, intervals recorded, and d the value given. -/
def recording (n : Nat) (d : Bool) : State :=
  { launched tc2 with est := List.replicate n 5, nSame := 5, work.d := d }

theorem test_witness_BrautoRecordsIntervals :
    (configLegal (recording 5 true).cfg = true ∧ (recording 5 true).cfg.num .autoEn = 1) ∧
      ((recording 5 false).estCnt < (recording 5 false).cfg.num .stopCount ∧
        (recording 5 false).work.d = (recording 5 false).prevD) ∧
      ((recording 4 true).work.d ≠ (recording 4 true).prevD ∧
        (recording 4 true).estCnt + 1 < (recording 4 true).cfg.num .stopCount) ∧
      ((recording 5 true).work.d ≠ (recording 5 true).prevD ∧
        (recording 5 true).estCnt + 1 = (recording 5 true).cfg.num .stopCount) := by decide

theorem test_witness_EqualIntervalsGiveBitrate :
    let s := recording 5 true
    (configLegal s.cfg = true ∧ s.cfg.num .autoEn = 1 ∧ s.work.d ≠ s.prevD ∧ s.estCnt + 1 = s.cfg.num .stopCount) ∧
      (∀ i, s.cfg.num .detLo ≤ i → i < s.cfg.num .detHi → (s.est ++ [s.nSame]).getD i 0 = 5) ∧
      s.cfg.num .tolNum = 1 ∧ s.cfg.num .tolDen = 2 := by
  refine ⟨by decide, fun i _ hi => ?_, by decide, by decide⟩
  have h6 : i < 6 := hi
  interval_cases i <;> decide

theorem test_witness_StalledDetectionOnlyCounts :
    let s := launched tc2
    s.decoderState = .bitrateDetect ∧ s.cfg.num .autoEn = 1 ∧ 2 ≤ s.db.length ∧
      s.db.getD (s.db.length - 2) false = s.prevD := by decide

/-- In Frame with a counter of 7 and the debounced sub-bits given. -/
def counted (n : Word) (p d : Bool) (ds : DecoderState) : State :=
  { framed tc1 [] with prevD := p, work.d := d, nSame := n, decoderState := ds }

theorem test_witness_BitdetDetectsAndRoutes :
    ((counted 6 true true .frame).work.d = (counted 6 true true .frame).prevD ∧
        (counted 6 true true .frame).nSame.toNat ≤
          (counted 6 true true .frame).bitrate.toNat + (counted 6 true true .frame).tolerance.toNat) ∧
      ((counted 7 true false .frame).work.d ≠ (counted 7 true false .frame).prevD ∧
        (counted 7 true false .interframe).decoderState ≠ .bitrateDetect) ∧
      (counted 7 true true .interframe).bitrate.toNat + (counted 7 true true .interframe).tolerance.toNat <
        (counted 7 true true .interframe).nSame.toNat := by decide

theorem test_witness_BitappendFillsSlots :
    (framed tc1 (slots [0, 0, 0, 0, 0, 0, 0, 0, 0, 0])).bbCnt + 1 ≠ tc1.num .w ∧
      (framed tc1 (slots [0, 0, 0, 0, 0, 0, 0, 0, 0, 0, 0])).bbCnt + 1 = tc1.num .w := by decide

theorem test_witness_DelimCloseEmitsMessage :
    let s : State := { framed tc1 [] with seq := 0xFFFFFFFE }
    s.seqSpent = false ∧ s.seq.toNat < 2 ^ 32 - 1 := by decide

theorem test_witness_MsgemitNumbersMessages :
    let s : State := { framed tc1 [] with seq := 0xFFFFFFFE }
    let t : State := { framed tc1 [] with seq := 0xFFFFFFFF }
    (s.seqSpent = false ∧ s.seq.toNat < 2 ^ 32 - 1) ∧ (t.seqSpent = false ∧ t.seq.toNat = 2 ^ 32 - 1) ∧
      ({ t with seqSpent := true } : State).seqSpent = true := by decide

theorem test_witness_IfbitLeavesInterframeOnZero :
    (launched tc1).work.bit = false ∧ ({ launched tc1 with work.bit := true } : State).work.bit = true := by decide

theorem test_witness_BitPathCompletesWithinFrame :
    closing.seqSpent = false ∧ gives (exec .bitdet { closing with nSame := 7, work.d := true }) (·.out) [⟨1, []⟩] = true ∧
      gives (exec .bitappend { closing with work.bit := true }) (·.out) [⟨1, []⟩] = true := by decide

theorem test_witness_BitBufferNeverFull :
    closing.bbCnt < closing.cfg.num .w ∧ closing.bbCnt + 1 = closing.cfg.num .w ∧
      gives (exec .bitappend closing) (·.bbCnt) 0 = true := by decide

theorem test_witness_IdleLineTiming :
    let s := counted 1 true true .interframe
    s.decoderState = .interframe ∧ s.work.d = true ∧ s.prevD = true ∧ s.nSame = 1 ∧
      s.bitrate.toNat + s.tolerance.toNat + 1 < 2 ^ 32 := by decide

theorem test_witness_StatusViewShowsRegisters :
    State.reset.msgBuf.length < 65536 ∧ ({ launched tc1 with msgBuf := List.replicate 65535 0x41 } : State).msgBuf.length < 65536 :=
  ⟨by decide, by simp only [List.length_replicate]; decide⟩

theorem test_witness_GapStepEmitsAtMostOnce :
    gives (gapStep 0 { closing with work.block := flat }) (·.out) [⟨1, []⟩] = true ∧
      gives (gapStep 0 { launched tc1 with work.block := flat }) (·.out) [] = true := by decide

/-- Detection kept, detection left, and a gap step after it. -/
theorem test_witness_GapStepSettlesBitrateOnce :
    gives (gapStep 0 { launched tc2 with work.block := flat }) (fun t => (t.decoderState, t.bitrate)) (.bitrateDetect, 0) = true ∧
      gives (gapStep 0 { launched tc1 with work.block := flat }) (fun t => (t.decoderState, t.bitrate)) (.frame, 4) = true ∧
      gives (gapStep 0 { framed tc1 [] with work.block := flat }) (fun t => (t.decoderState, t.bitrate)) (.frame, 4) = true := by
  decide

theorem test_witness_DetectionRerunsOnlyAfterReset :
    let s : State := { framed tc1 [] with rx := [0x00000003] }
    s.stagePort = none ∧ s.decoderState ≠ .bitrateDetect ∧ (∀ rest, decode s.rx ≠ .ok .reset rest) ∧
      gives (step s) (fun t => (t.runState, t.bitrate)) (.halted, 4) = true := by
  intro s
  have hd : decode s.rx = .ok (.endSession false) [] := by decide
  exact ⟨by decide, by decide, fun rest h => by rw [hd] at h; exact absurd h (by simp), by decide⟩

end Sys2Proof.Tests
end

/-!
SUPPORT. The state of the core (10_state.md): what a transaction, a stage operation, a gap step and a step can do, each said
once; what they keep of the session and machine invariants (R44, R132); and from these the statements on the state.
-/

namespace Sys2Proof.Machine

/-! ## What a host transaction can do -/

/-- The six things a transaction, legal or not, can do to the state (R79 to R88, R138, R141). -/
inductive TransactionStep (s : State) : State → Prop
  | ignored : TransactionStep s s
  | started (legal : configLegal s.cfg = true) : TransactionStep s (startSession s)
  | faulted (code : FaultCode) (raised : code ≠ .none) : TransactionStep s (raiseFault code s)
  | configured (c : ConfigRegs) (outside : s.runState ≠ .running) : TransactionStep s { s with cfg := c }
  | ended (reason : TermReason) (running : s.runState = .running) : TransactionStep s (terminate reason s)
  | processed (xs : List Byte) (t : State) (running : s.runState = .running) (done : processBlock xs s = .next t) :
      TransactionStep s t

theorem illegalTransaction_cases (s : State) : TransactionStep s (illegalTransaction s) := by
  by_cases h : s.runState = .faulted
  · exact (illegalTransaction_faulted h).symm ▸ .ignored
  · exact (illegalTransaction_raises h).symm ▸ .faulted _ (by decide)

theorem execReset_cases {s t : State} (h : execReset s = .next t) : TransactionStep s t := by
  unfold execReset at h
  split at h <;> cases h
  · exact .started ‹_›
  · exact .faulted _ (by decide)

theorem execCfgw_cases {idx : BitVec 8} {value : Word} {s t : State} (h : execCfgw idx value s = .next t) :
    TransactionStep s t := by
  unfold execCfgw at h
  split at h
  · cases h
    exact illegalTransaction_cases s
  · split at h <;> cases h
    · exact .faulted _ (by decide)
    · exact .configured _ (by simp [*])
    · exact .configured _ (by simp [*])

theorem execBlock_cases {xs : List Byte} {s t : State} (h : execBlock xs s = .next t) : TransactionStep s t := by
  unfold execBlock at h
  split at h
  · cases h
    exact .ignored
  · cases h
    exact .faulted _ (by decide)
  · split at h
    · cases h
      exact .faulted _ (by decide)
    · split at h
      · cases h
        exact .ended _ ‹_›
      · exact .processed xs t ‹_› h

theorem execEnd_cases {reason : Bool} {s t : State} (h : execEnd reason s = .next t) : TransactionStep s t := by
  unfold execEnd at h
  split at h <;> cases h
  · exact .ignored
  · exact .faulted _ (by decide)
  · exact .ended _ ‹_›

theorem execCancel_cases {s t : State} (h : execCancel s = .next t) : TransactionStep s t := by
  unfold execCancel at h
  split at h <;> cases h
  · exact .ignored
  · exact .ignored
  · exact .ended _ ‹_›

theorem exec_transaction_cases {i : Instr} {s t : State} (hi : i.isTransaction = true) (h : exec i s = .next t) :
    TransactionStep s t := by
  cases i with
  | reset => exact execReset_cases h
  | cfgw idx value => exact execCfgw_cases h
  | block samples => exact execBlock_cases h
  | endSession reason => exact execEnd_cases h
  | cancel => exact execCancel_cases h
  | _ => cases hi

/-! ## What a step can do -/

theorem assemble_isTransaction (h : Word) (payload : List Word) : (assemble h payload).isTransaction = true := by
  unfold assemble
  split <;> rfl

/-- The host's words name transactions alone (R70). -/
theorem decode_isTransaction {ws rest : List Word} {i : Instr} (h : decode ws = .ok i rest) :
    i.isTransaction = true := by
  unfold decode at h
  split at h
  · cases h
  · split at h
    · cases h
    · split at h
      · cases h
      · cases h
        exact assemble_isTransaction _ _
theorem decodeStage_isStage {code : Byte} {i : Instr} (h : decodeStage code = some i) : i.isTransaction = false := by
  unfold decodeStage at h
  split at h <;> cases h <;> rfl

theorem step_eq_runTransaction {s : State} (h : s.stagePort = none) : step s = runTransaction s := by
  simp [step, h]

theorem runTransaction_of_decode {s : State} {i : Instr} {rest : List Word} (h : decode s.rx = .ok i rest) :
    runTransaction s = exec i { s with rx := rest } := by
  simp [runTransaction, h]

/-- The host's words do to the state what a transaction does, on what is left of them; while the core waits for the rest
of a transaction, that is nothing (R72, R151). -/
theorem runTransaction_cases {s t : State} (h : runTransaction s = .next t) :
    ∃ rest, TransactionStep { s with rx := rest } t := by
  unfold runTransaction at h
  split at h
  · exact ⟨_, exec_transaction_cases (decode_isTransaction ‹_›) h⟩
  · cases h
    exact ⟨_, illegalTransaction_cases _⟩
  · cases h
    exact ⟨s.rx, .ignored⟩

/-- What a step can do: empty the stage port, run the port's stage operation in a session, or run the host's words. -/
inductive StepCase (s : State) : State → Prop
  | portEmptied : StepCase s { s with stagePort := none }
  | stage (i : Instr) (t : State) (isStage : i.isTransaction = false)
      (done : exec i { s with stagePort := none } = .next t) : StepCase s t
  | transaction (rest : List Word) (t : State) (done : TransactionStep { s with rx := rest } t) : StepCase s t

theorem runStageCode_cases {code : Byte} {s t : State} (h : runStageCode code { s with stagePort := none } = .next t) :
    StepCase s t := by
  unfold runStageCode at h
  split at h
  · cases h
    exact .portEmptied
  · cases h
    exact .portEmptied
  · split at h
    · exact .stage _ t (decodeStage_isStage ‹_›) h
    · cases h
      exact .portEmptied

theorem step_cases {s t : State} (h : step s = .next t) : StepCase s t := by
  unfold step at h
  split at h
  · exact runStageCode_cases h
  · obtain ⟨rest, done⟩ := runTransaction_cases h
    exact .transaction rest t done

/-! ## What a stage operation leaves unchanged -/

/-- What no stage operation writes, and what it may emit (R58, R128, R139). -/
structure StageFrame (s t : State) : Prop where
  runState : t.runState = s.runState
  faultCode : t.faultCode = s.faultCode
  termReason : t.termReason = s.termReason
  cfg : t.cfg = s.cfg
  runStart : t.runStart = s.runStart
  faults : t.faults = s.faults
  rx : t.rx = s.rx
  stagePort : t.stagePort = s.stagePort
  out : t.out = s.out ∨ t.out = s.out ++ [⟨s.seq, s.msgBuf⟩]

theorem BitFrame.stageFrame {s t : State} (h : BitFrame s t) : StageFrame s t :=
  { h with }

theorem execBrauto_frame {s t : State} (h : execBrauto s = .next t) : StageFrame s t := by
  rcases execBrauto_cases s with ⟨-, e⟩ | ⟨-, -, e⟩ | ⟨-, -, e⟩ <;> cases e.symm.trans h <;> constructor <;> simp

theorem execIfbit_frame {s t : State} (h : execIfbit s = .next t) : StageFrame s t := by
  unfold execIfbit at h
  split at h <;> cases h <;> constructor <;> simp

theorem execMsgemit_frame {s t : State} (h : execMsgemit s = .next t) : StageFrame s t := by
  obtain ⟨-, rfl⟩ := execMsgemit_eq_next.mp h
  constructor <;> simp

theorem execDelimClose_frame {s t : State} (h : execDelimClose s = .next t) : StageFrame s t := by
  obtain ⟨-, rfl⟩ := execDelimClose_eq_next.mp h
  constructor <;> simp

theorem execPayload_frame {s t : State} (h : execPayload s = .next t) : StageFrame s t := by
  cases h
  constructor <;> simp

theorem exec_stage_frame {i : Instr} {s t : State} (hi : i.isTransaction = false) (h : exec i s = .next t) :
    StageFrame s t := by
  cases i with
  | reset | cfgw | block | endSession | cancel => cases hi
  | avg | gapdet | debounce | brfix | gapend | delimOpen | discard =>
    cases h
    exact ⟨rfl, rfl, rfl, rfl, rfl, rfl, rfl, rfl, .inl rfl⟩
  | brauto => exact execBrauto_frame h
  | bitdet => exact (execBitdet_frame h).stageFrame
  | bitappend => exact (execBitappend_frame h).1.stageFrame
  | bytedone => exact (execBytedone_cases h).frame.1.stageFrame
  | delimClose => exact execDelimClose_frame h
  | payload => exact execPayload_frame h
  | msgemit => exact execMsgemit_frame h
  | ifbit => exact execIfbit_frame h

/-! ## What the decoder's stage of a gap step can do -/

/-- The state in which BITDET routes the bit it detected: the bit is d, the counter starts again at `n` (R114). -/
def withDetectedBit (n : Word) (s : State) : State := { s with nSame := n, work.bit := s.work.d }

/-- BITDET starts the counter again at 0 or at the tolerance (R115, R116). -/
theorem detectedState_eq_some {s u : State} (h : detectedState s = some u) :
    ∃ n : Word, n.toNat ≤ s.tolerance.toNat ∧ u = withDetectedBit n s := by
  unfold detectedState at h
  split at h
  · cases h
    exact ⟨0, by simp, rfl⟩
  · split at h <;> cases h
    exact ⟨s.tolerance, le_rfl, rfl⟩

/-- Without a bit the counter is within the exact sum (R116). -/
theorem counter_le_of_detectedState_eq_none {s : State} (h : detectedState s = none) :
    s.nSame.toNat ≤ s.bitrate.toNat + s.tolerance.toNat := by
  unfold detectedState at h
  split at h
  · cases h
  · split at h
    · cases h
    · simpa [timeout] using ‹¬timeout s = true›

/-- The ways the decoder's stage of a gap step goes (R90, R105, R107, R114). -/
inductive DecoderStep (s : State) : State → Prop
  | fixed (detecting : s.decoderState = .bitrateDetect) (auto : s.cfg.num .autoEn = 0) :
      DecoderStep s (adoptBitrate (s.cfg.num .fixedBitrate) s)
  | unchanged (detecting : s.decoderState = .bitrateDetect) (auto : s.cfg.num .autoEn ≠ 0) : DecoderStep s s
  | recorded (detecting : s.decoderState = .bitrateDetect) (auto : s.cfg.num .autoEn ≠ 0)
      (room : s.estCnt + 1 ≠ s.cfg.num .stopCount) : DecoderStep s (recordInterval s)
  | estimated (detecting : s.decoderState = .bitrateDetect) (b : Nat) :
      DecoderStep s (adoptBitrate b (recordInterval s))
  | noBit (settled : s.decoderState ≠ .bitrateDetect)
      (counter : s.nSame.toNat ≤ s.bitrate.toNat + s.tolerance.toNat) : DecoderStep s s
  | stored (frame : s.decoderState = .frame) (n : Word) (counter : n.toNat ≤ s.tolerance.toNat)
      (room : s.bbCnt + 1 ≠ s.cfg.num .w) : DecoderStep s (storeBit (withDetectedBit n s))
  | decoded (frame : s.decoderState = .frame) (n : Word) (counter : n.toNat ≤ s.tolerance.toNat) (t : State)
      (byte : ByteStep (storeBit (withDetectedBit n s)) t) : DecoderStep s t
  | skipped (interframe : s.decoderState = .interframe) (n : Word) (counter : n.toNat ≤ s.tolerance.toNat) :
      DecoderStep s (withDetectedBit n s)
  | resumed (interframe : s.decoderState = .interframe) (n : Word) (counter : n.toNat ≤ s.tolerance.toNat) :
      DecoderStep s { withDetectedBit n s with decoderState := .frame }

theorem execBrauto_decoderStep {s t : State} (hd : s.decoderState = .bitrateDetect) (ha : s.cfg.num .autoEn ≠ 0)
    (h : execBrauto s = .next t) : DecoderStep s t := by
  rcases execBrauto_cases s with ⟨-, e⟩ | ⟨-, room, e⟩ | ⟨-, -, e⟩ <;> cases e.symm.trans h
  · exact .unchanged hd ha
  · exact .recorded hd ha room
  · exact .estimated hd _

theorem routeBit_decoderStep {s t : State} {n : Word} (hd : s.decoderState ≠ .bitrateDetect)
    (hn : n.toNat ≤ s.tolerance.toNat) (h : routeBit (withDetectedBit n s) = .next t) : DecoderStep s t := by
  unfold routeBit at h
  split at h
  · rcases execBitappend_cases h with ⟨room, rfl⟩ | ⟨-, byte⟩
    · exact .stored ‹_› n hn room
    · exact .decoded ‹_› n hn t byte
  · unfold execIfbit at h
    split at h <;> cases h
    · exact .skipped ‹_› n hn
    · exact .resumed ‹_› n hn
  · contradiction

theorem execBitdet_decoderStep {s t : State} (hd : s.decoderState ≠ .bitrateDetect) (h : execBitdet s = .next t) :
    DecoderStep s t := by
  rw [execBitdet_eq] at h
  split at h
  · obtain ⟨n, hn, rfl⟩ := detectedState_eq_some ‹_›
    exact routeBit_decoderStep hd hn h
  · cases h
    exact .noBit hd (counter_le_of_detectedState_eq_none ‹_›)

theorem decodeStageOfGap_cases {s t : State} (h : decodeStageOfGap s = .next t) : DecoderStep s t := by
  unfold decodeStageOfGap at h
  split at h
  · split at h
    · cases h
      exact .fixed ‹_› ‹_›
    · exact execBrauto_decoderStep ‹_› ‹_› h
  · exact execBitdet_decoderStep (by simp [*]) h
  · exact execBitdet_decoderStep (by simp [*]) h

/-! ## The session invariant -/

/-- A reset with a legal configuration meets the session invariant (R79). -/
theorem startSession_sessionInv {s : State} (legal : configLegal s.cfg = true) : SessionInv (startSession s) where
  legal := legal
  depth := by simp
  slots := by
    obtain ⟨hw, -, -⟩ := configLegal_width legal
    simp [State.bbCnt]
    omega
  chars := by simp
  text := by simp
  filling := fun _ auto => by
    obtain ⟨hc, -, -, -⟩ := configLegal_window legal auto
    exact hc
  fresh := by simp
  counted := by simp
  undetected := by simp
  unopened := by simp
  between := by simp
  unterminated := rfl

/-- AVG, GAPDET and DEBOUNCE keep the session invariant: of the registers it speaks of they write `db` alone (R44). -/
theorem afterSignalPath_sessionInv {s : State} (h : SessionInv s) (g : Nat) : SessionInv (afterSignalPath g s) :=
  { h with
    depth := by
      have filled : s.db ≠ [] := by
        intro empty
        simpa [empty, ConfigRegs.debounceLength] using h.depth
      exact (debounced_length filled _).trans h.depth }

/-- Detection is left with the counter at 0 (R105, R107). -/
theorem adoptBitrate_sessionInv {s : State} (h : SessionInv s) (est : List Word) {n : Word} (counter : n = 0) (b : Nat) :
    SessionInv (adoptBitrate b { s with est := est, nSame := n }) where
  legal := h.legal
  depth := h.depth
  slots := h.slots
  chars := h.chars
  text := h.text
  filling := by simp
  fresh := by simp
  counted := by simp [counter]
  undetected := by simp
  unopened := h.unopened
  between := by simp
  unterminated := h.unterminated

theorem recordInterval_sessionInv {s : State} (h : SessionInv s) (auto : s.cfg.num .autoEn ≠ 0)
    (room : s.estCnt + 1 ≠ s.cfg.num .stopCount) : SessionInv (recordInterval s) :=
  { h with
    filling := fun detecting on => by
      have below : s.estCnt < s.cfg.num .stopCount := h.filling detecting on
      have grown : (recordInterval s).estCnt = s.estCnt + 1 := by simp [State.estCnt]
      rw [grown]
      exact lt_of_le_of_ne below room
    fresh := fun _ off => absurd off auto
    counted := by simp }

theorem withDetectedBit_sessionInv {s : State} (h : SessionInv s) (settled : s.decoderState ≠ .bitrateDetect) {n : Word}
    (counter : n.toNat ≤ s.tolerance.toNat) : SessionInv (withDetectedBit n s) :=
  { h with
    fresh := fun detecting => absurd detecting settled
    counted := fun _ => le_trans counter (by dsimp only [withDetectedBit]; omega) }

theorem storeBit_sessionInv {s : State} (h : SessionInv s) (frame : s.decoderState = .frame)
    (room : s.bbCnt + 1 ≠ s.cfg.num .w) : SessionInv (storeBit s) :=
  { h with
    slots := by
      have below := h.slots
      have grown : (storeBit s).bbCnt = s.bbCnt + 1 := by simp [State.bbCnt]
      rw [grown]
      exact lt_of_le_of_ne below room
    undetected := by simp [frame]
    between := by simp [frame] }

/-- Decoding the buffer that the last bit filled empties it (R120). -/
theorem decodeByte_storeBit_sessionInv {s : State} (h : SessionInv s) (frame : s.decoderState = .frame) :
    SessionInv (decodeByte (storeBit s)) :=
  { h with
    slots := Nat.zero_lt_of_lt h.slots
    undetected := by simp [frame]
    between := by simp [frame] }

theorem appendChar_sessionInv {s : State} (h : SessionInv s) (opened : s.streamOpened = true) {ch : Byte}
    (hc : printable ch = true) : SessionInv (appendChar ch s) := by
  unfold appendChar
  split
  · exact { h with
      chars := by simpa using ‹_ < _›
      text := fun x hx => (List.mem_append.mp hx).elim (h.text x) fun last => List.mem_singleton.mp last ▸ hc
      unopened := fun closed => absurd (opened.symm.trans closed) (by decide) }
  · exact h

/-- Whichever way the decoded byte goes, the session invariant holds after it (R120, R122, R123, R127). -/
theorem ByteStep.keeps_sessionInv {s t : State} (step : ByteStep s t) (h : SessionInv (decodeByte s))
    (frame : s.decoderState = .frame) : SessionInv t := by
  cases step with
  | opened closed =>
    exact { h with
      undetected := by simp [frame]
      unopened := by simp
      between := by simp }
  | closed opened =>
    exact { h with
      chars := by simp
      text := by simp
      filling := by simp
      fresh := by simp
      counted := fun _ => h.counted (by simp [frame])
      undetected := by simp
      unopened := by simp
      between := by simp [opened] }
  | appended opened ch hc => exact appendChar_sessionInv h opened hc
  | discarded => exact h

/-- The decoder's stage of a gap step keeps the session invariant (R44). -/
theorem DecoderStep.keeps_sessionInv {s t : State} (step : DecoderStep s t) (h : SessionInv s) : SessionInv t := by
  cases step with
  | fixed detecting auto => exact adoptBitrate_sessionInv h s.est (h.fresh detecting auto) _
  | estimated detecting b => exact adoptBitrate_sessionInv h _ rfl b
  | unchanged | noBit => exact h
  | recorded detecting auto room => exact recordInterval_sessionInv h auto room
  | stored frame n counter room =>
    exact storeBit_sessionInv (withDetectedBit_sessionInv h (by simp [frame]) counter) frame room
  | decoded frame n counter _ byte =>
    have detected := withDetectedBit_sessionInv h (by simp [frame]) counter
    exact byte.keeps_sessionInv (decodeByte_storeBit_sessionInv detected frame) frame
  | skipped interframe n counter => exact withDetectedBit_sessionInv h (by simp [interframe]) counter
  | resumed interframe n counter =>
    have detected := withDetectedBit_sessionInv h (by simp [interframe]) counter
    exact { detected with
      filling := by simp
      fresh := by simp
      counted := fun _ => detected.counted (by simp [withDetectedBit, interframe])
      undetected := by simp
      between := by simp }

/-- What GAPEND needs so that its count keeps the session invariant: room for one more gap once the bitrate is settled,
and no fixed bitrate still to be adopted (R44, R105, R117). -/
structure ReadyToCount (s : State) : Prop where
  counter : s.decoderState ≠ .bitrateDetect → s.nSame.toNat ≤ s.bitrate.toNat + s.tolerance.toNat
  auto : s.decoderState = .bitrateDetect → s.cfg.num .autoEn ≠ 0

theorem ReadyToCount.of_settled {s : State} (settled : s.decoderState ≠ .bitrateDetect)
    (counter : s.nSame.toNat ≤ s.bitrate.toNat + s.tolerance.toNat) : ReadyToCount s :=
  ⟨fun _ => counter, fun detecting => absurd detecting settled⟩

/-- A bit that starts the counter again at the tolerance or below leaves room for the gap (R115, R116). -/
theorem ReadyToCount.of_detectedBit {s : State} (settled : s.decoderState ≠ .bitrateDetect)
    (counter : s.nSame.toNat ≤ s.tolerance.toNat) : ReadyToCount s :=
  .of_settled settled (le_add_left counter)

theorem ByteStep.decoderState_ne_bitrateDetect {s t : State} (step : ByteStep s t) (frame : s.decoderState = .frame) :
    t.decoderState ≠ .bitrateDetect := by
  cases step <;> simp [frame]

theorem DecoderStep.readyToCount {s t : State} (step : DecoderStep s t) (h : SessionInv s) : ReadyToCount t := by
  cases step with
  | fixed detecting auto => exact .of_settled (by simp) (by simp [h.fresh detecting auto])
  | estimated => exact .of_settled (by simp) (by simp)
  | unchanged detecting auto | recorded detecting auto => exact ⟨fun settled => absurd detecting settled, fun _ => auto⟩
  | noBit settled counter => exact .of_settled settled counter
  | stored frame n counter => exact .of_detectedBit (by simp [withDetectedBit, frame]) counter
  | decoded frame n counter _ byte =>
    obtain ⟨unchanged, count⟩ := byte.frame
    refine .of_detectedBit (byte.decoderState_ne_bitrateDetect frame) ?_
    rw [count, unchanged.tolerance]
    exact counter
  | skipped interframe n counter => exact .of_detectedBit (by simp [withDetectedBit, interframe]) counter
  | resumed interframe n counter => exact .of_detectedBit (by simp) counter

/-- GAPEND writes prev_d and the counter (R117). -/
theorem afterGapend_sessionInv {s : State} (h : SessionInv s) (ready : ReadyToCount s) : SessionInv (afterGapend s) :=
  { h with
    fresh := fun detecting off => absurd off (ready.auto detecting)
    counted := fun settled => by
      rw [afterGapend_nSame]
      exact (min_le_left _ _).trans (Nat.succ_le_succ (ready.counter settled)) }

/-- A gap step keeps the session invariant (R44). -/
theorem gapStep_sessionInv {g : Nat} {s t : State} (h : SessionInv s) (done : gapStep g s = .next t) : SessionInv t := by
  obtain ⟨u, stage, rfl⟩ := gapStep_eq_next.mp done
  have signal := afterSignalPath_sessionInv h g
  have step := decodeStageOfGap_cases stage
  exact afterGapend_sessionInv (step.keeps_sessionInv signal) (step.readyToCount signal)

/-! ## The messages of the run -/

/-- The two states hold the same messages and the same next number. -/
structure SameNumbering (s t : State) : Prop where
  out : t.out = s.out
  seq : t.seq = s.seq
  seqSpent : t.seqSpent = s.seqSpent
  runStart : t.runStart = s.runStart

/-- What a gap step does to the messages: nothing, or MSGEMIT once on the number and the text it finds (R91, R128). -/
inductive EmitsAtMostOnce (s t : State) : Prop
  | silent (same : SameNumbering s t)
  | emitted (unspent : s.seqSpent = false) (same : SameNumbering (emitMsg s) t)

theorem ByteStep.emitsAtMostOnce {s t : State} (step : ByteStep s t) : EmitsAtMostOnce s t := by
  cases step with
  | closed _ unspent => exact .emitted unspent ⟨rfl, rfl, rfl, rfl⟩
  | appended _ ch _ => exact .silent ⟨by simp, by simp, by simp, by simp⟩
  | opened | discarded => exact .silent ⟨rfl, rfl, rfl, rfl⟩

theorem DecoderStep.emitsAtMostOnce {s t : State} (step : DecoderStep s t) : EmitsAtMostOnce s t := by
  cases step with
  | decoded _ n _ _ byte =>
    cases byte.emitsAtMostOnce with
    | silent same => exact .silent ⟨same.out, same.seq, same.seqSpent, same.runStart⟩
    | emitted unspent same => exact .emitted unspent ⟨same.out, same.seq, same.seqSpent, same.runStart⟩
  | _ => exact .silent ⟨rfl, rfl, rfl, rfl⟩

theorem gapStep_emitsAtMostOnce {g : Nat} {s t : State} (h : gapStep g s = .next t) : EmitsAtMostOnce s t := by
  obtain ⟨u, stage, rfl⟩ := gapStep_eq_next.mp h
  cases (decodeStageOfGap_cases stage).emitsAtMostOnce with
  | silent same => exact .silent ⟨same.out, same.seq, same.seqSpent, same.runStart⟩
  | emitted unspent same => exact .emitted unspent ⟨same.out, same.seq, same.seqSpent, same.runStart⟩

theorem EmitsAtMostOnce.out_prefix {s t : State} (h : EmitsAtMostOnce s t) : s.out <+: t.out := by
  cases h with
  | silent same => exact same.out ▸ List.prefix_rfl
  | emitted _ same => exact same.out ▸ List.prefix_append _ _

/-- The clauses of the machine invariant on the messages of the run, which speak of no other register than
`SameNumbering` does (R36, R132, R165). -/
structure RunInv (s : State) : Prop where
  run : s.runStart ≤ s.out.length
  numbers : (runOutput s).map (fun m => m.seq.toNat) = List.range' 1 (runOutput s).length
  next : s.seqSpent = false → s.seq.toNat = (runOutput s).length + 1
  texts : ∀ m ∈ s.out, (∀ ch ∈ m.text, printable ch = true) ∧ m.text.length ≤ 65535

theorem MachineInv.runInv {s : State} (h : MachineInv s) : RunInv s := { h with }

theorem SameNumbering.runOutput {s t : State} (same : SameNumbering s t) : runOutput t = runOutput s := by
  rw [Machine.runOutput, Machine.runOutput, same.out, same.runStart]

theorem SameNumbering.keeps_runInv {s t : State} (same : SameNumbering s t) (h : RunInv s) : RunInv t where
  run := by
    rw [same.out, same.runStart]
    exact h.run
  numbers := by
    rw [same.runOutput]
    exact h.numbers
  next := by
    rw [same.runOutput, same.seq, same.seqSpent]
    exact h.next
  texts := by
    rw [same.out]
    exact h.texts

theorem runOutput_emitMsg {s : State} (h : s.runStart ≤ s.out.length) :
    runOutput (emitMsg s) = runOutput s ++ [⟨s.seq, s.msgBuf⟩] :=
  List.drop_append_of_le_length h

/-- The next number exists unless the one just used was the last (R128). -/
theorem emitMsg_seq_toNat {s : State} (unspent : (emitMsg s).seqSpent = false) :
    (emitMsg s).seq.toNat = s.seq.toNat + 1 := by
  have notLast : s.seq.toNat ≠ Config.counterMax := of_decide_eq_false unspent
  rw [emitMsg_seq, if_neg notLast]
  unfold Config.counterMax at notLast
  bv_omega

/-- MSGEMIT keeps the numbers of the session without a gap (R132). -/
theorem emitMsg_runInv {s : State} (h : RunInv s) (unspent : s.seqSpent = false)
    (text : (∀ ch ∈ s.msgBuf, printable ch = true) ∧ s.msgBuf.length ≤ 65535) : RunInv (emitMsg s) where
  run := h.run.trans (by simp)
  numbers := by
    rw [runOutput_emitMsg h.run, List.map_append, h.numbers, List.length_append, List.length_singleton,
      List.range'_concat]
    simp [h.next unspent, Nat.add_comm]
  next := fun left => by
    rw [emitMsg_seq_toNat left, runOutput_emitMsg h.run, h.next unspent, List.length_append, List.length_singleton]
  texts := fun m hm => (List.mem_append.mp hm).elim (h.texts m) fun last => List.mem_singleton.mp last ▸ text

/-- What MSGEMIT finds in the buffer of a running session is a legal text (R44, R132). -/
theorem SessionInv.text_legal {s : State} (h : SessionInv s) :
    (∀ ch ∈ s.msgBuf, printable ch = true) ∧ s.msgBuf.length ≤ 65535 :=
  ⟨h.text, h.chars.trans (configLegal_maxMsg h.legal)⟩

theorem EmitsAtMostOnce.keeps_runInv {s t : State} (step : EmitsAtMostOnce s t) (session : SessionInv s)
    (h : RunInv s) : RunInv t := by
  cases step with
  | silent same => exact same.keeps_runInv h
  | emitted unspent same => exact same.keeps_runInv (emitMsg_runInv h unspent session.text_legal)

/-- Any number of gap steps keep the session and the numbering of its messages. -/
theorem runGaps_keeps_invariants {n g : Nat} {s t : State} (h : SessionInv s ∧ RunInv s)
    (done : runGaps n g s = .next t) : SessionInv t ∧ RunInv t :=
  runGaps_induction (P := fun s => SessionInv s ∧ RunInv s)
    (fun _ _ _ ⟨session, run⟩ gap =>
      ⟨gapStep_sessionInv session gap, (gapStep_emitsAtMostOnce gap).keeps_runInv session run⟩)
    h done

theorem runGaps_out_prefix {n g : Nat} {s t : State} (done : runGaps n g s = .next t) : s.out <+: t.out :=
  runGaps_induction (P := fun u => s.out <+: u.out)
    (fun _ _ _ before gap => before.trans (gapStep_emitsAtMostOnce gap).out_prefix) List.prefix_rfl done

/-! ## The machine invariant -/

theorem startSession_machineInv {s : State} (h : MachineInv s) (legal : configLegal s.cfg = true) :
    MachineInv (startSession s) where
  session := fun _ => startSession_sessionInv legal
  faultCode := by simp
  history := by simp
  run := by simp
  numbers := by simp [runOutput]
  next := by simp [runOutput, Config.firstSeq]
  texts := h.texts
  port := h.port
  idle := rfl

theorem raiseFault_machineInv {s : State} (h : MachineInv s) {code : FaultCode} (raised : code ≠ .none) :
    MachineInv (raiseFault code s) :=
  { h with
    session := by simp
    faultCode := by simp [raised]
    history := by simp }

theorem terminate_machineInv {s : State} (h : MachineInv s) (running : s.runState = .running) (reason : TermReason) :
    MachineInv (terminate reason s) :=
  { h with
    session := by simp
    faultCode := by simpa [running] using h.faultCode
    history := by simp }

/-- Outside a session no clause reads the configuration (R30). -/
theorem configured_machineInv {s : State} (h : MachineInv s) (outside : s.runState ≠ .running) (c : ConfigRegs) :
    MachineInv { s with cfg := c } :=
  { h with session := fun running => absurd running outside }

theorem processBlock_machineInv {xs : List Byte} {s t : State} (h : MachineInv s) (running : s.runState = .running)
    (done : processBlock xs s = .next t) : MachineInv t := by
  obtain ⟨u, gaps, rfl⟩ := processBlock_eq_next.mp done
  have frame := runGaps_frame gaps
  have start : SessionInv { s with work := { Work.idle with block := xs } } := { h.session running with }
  obtain ⟨session, run⟩ := runGaps_keeps_invariants ⟨start, { h.runInv with }⟩ gaps
  exact { run with
    session := fun _ => { session with }
    faultCode := by
      rw [frame.faultCode, frame.runState]
      exact h.faultCode
    history := by
      rw [frame.faultCode, frame.runState, frame.faults]
      exact h.history
    port := frame.stagePort.trans h.port
    idle := rfl }

theorem TransactionStep.keeps_machineInv {s t : State} (step : TransactionStep s t) (h : MachineInv s) :
    MachineInv t := by
  cases step with
  | ignored => exact h
  | started legal => exact startSession_machineInv h legal
  | faulted code raised => exact raiseFault_machineInv h raised
  | configured c outside => exact configured_machineInv h outside c
  | ended reason running => exact terminate_machineInv h running reason
  | processed xs _ running done => exact processBlock_machineInv h running done

/-- No clause of the machine invariant reads the host's words. -/
theorem withRx_machineInv {s : State} (h : MachineInv s) (rest : List Word) : MachineInv { s with rx := rest } :=
  { h with session := fun running => { h.session running with } }

theorem step_keeps_machineInv {s t : State} (h : MachineInv s) (done : step s = .next t) : MachineInv t := by
  rw [step_eq_runTransaction h.port] at done
  obtain ⟨rest, step⟩ := runTransaction_cases done
  exact step.keeps_machineInv (withRx_machineInv h rest)

theorem reset_machineInv : MachineInv State.reset where
  session := fun running => by cases running
  faultCode := by decide
  history := by decide
  run := le_rfl
  numbers := rfl
  next := fun _ => rfl
  texts := by decide
  port := rfl
  idle := rfl

/-! ## The configuration and the histories -/

/-- A session keeps its configuration: CFGW writes it outside a session alone (R30, R81). -/
theorem TransactionStep.keeps_cfg {s t : State} (step : TransactionStep s t) (running : s.runState = .running) :
    t.cfg = s.cfg := by
  cases step with
  | ignored | started | faulted | ended => rfl
  | configured c outside => exact absurd running outside
  | processed xs _ _ done =>
    obtain ⟨u, gaps, rfl⟩ := processBlock_eq_next.mp done
    exact (runGaps_frame gaps).cfg

/-- A fault is appended to the history, and everything else leaves it (R43, R140). -/
theorem TransactionStep.faults_prefix {s t : State} (step : TransactionStep s t) : s.faults <+: t.faults := by
  cases step with
  | ignored | started | configured | ended => exact List.prefix_rfl
  | faulted code => exact List.prefix_append _ _
  | processed xs _ _ done =>
    obtain ⟨u, gaps, rfl⟩ := processBlock_eq_next.mp done
    exact (runGaps_frame gaps).faults ▸ List.prefix_rfl

/-- A BLOCK appends its messages, and everything else leaves those before it (R128). -/
theorem TransactionStep.out_prefix {s t : State} (step : TransactionStep s t) : s.out <+: t.out := by
  cases step with
  | ignored | started | faulted | configured | ended => exact List.prefix_rfl
  | processed xs _ _ done =>
    obtain ⟨u, gaps, rfl⟩ := processBlock_eq_next.mp done
    have appended := runGaps_out_prefix gaps
    exact appended

theorem StageFrame.out_prefix {s t : State} (h : StageFrame s t) : s.out <+: t.out := by
  rcases h.out with same | grown
  · exact same ▸ List.prefix_rfl
  · exact grown ▸ List.prefix_append _ _

theorem step_keeps_cfg {s t : State} (running : s.runState = .running) (done : step s = .next t) : t.cfg = s.cfg := by
  cases step_cases done with
  | portEmptied => rfl
  | stage i _ isStage done => exact (exec_stage_frame isStage done).cfg
  | transaction rest _ step => exact step.keeps_cfg running

theorem step_histories_prefix {s t : State} (done : step s = .next t) : s.faults <+: t.faults ∧ s.out <+: t.out := by
  cases step_cases done with
  | portEmptied => exact ⟨List.prefix_rfl, List.prefix_rfl⟩
  | stage i _ isStage done =>
    have frame := exec_stage_frame isStage done
    exact ⟨frame.faults ▸ List.prefix_rfl, frame.out_prefix⟩
  | transaction rest _ step => exact ⟨step.faults_prefix, step.out_prefix⟩

/-! ## What Faulted ignores -/

/-- While Faulted RESET and a CFGW with a legal index are the only transactions that do anything (R43, R82). -/
theorem exec_ignored_of_faulted {i : Instr} {s : State} (faulted : s.runState = .faulted)
    (hi : i.isTransaction = true) (notReset : i ≠ .reset)
    (reserved : ∀ idx value, i = .cfgw idx value → 16 ≤ idx.toNat) : exec i s = .next s := by
  cases i with
  | reset => exact absurd rfl notReset
  | cfgw idx value =>
    have illegal : CfgReg.ofIndex idx = none := ofIndex_eq_none.mpr (reserved idx value rfl)
    simp [exec, execCfgw, illegal, illegalTransaction_faulted faulted]
  | block samples => simp [exec, execBlock, faulted]
  | endSession reason => simp [exec, execEnd, faulted]
  | cancel => simp [exec, execCancel, faulted]
  | _ => cases hi

/-! ## The bit buffer -/

theorem ByteStep.bbCnt {s t : State} (step : ByteStep s t) : t.bbCnt = 0 := by
  cases step <;> simp [State.bbCnt]

/-! ## The obligations -/

/-- Settles O32: a step runs a transaction, a BLOCK runs gap steps, and each keeps the invariants of the session and of
the messages. -/
theorem stepKeepsMachineInv : Obligations.StepKeepsMachineInv := by
  intro s t h done
  exact step_keeps_machineInv h done

/-- Settles O25, from the transactions that Faulted ignores; the step runs one on the state without its words. -/
theorem faultedIgnores : Obligations.FaultedIgnores := by
  intro i s faulted hi notReset reserved
  refine ⟨exec_ignored_of_faulted faulted hi notReset reserved, fun rest port read => ?_⟩
  rw [step_eq_runTransaction port, runTransaction_of_decode read]
  exact exec_ignored_of_faulted faulted hi notReset reserved

/-- Settles O28, from what each kind of step writes. -/
theorem configConstantInSession : Obligations.ConfigConstantInSession := by
  intro s t running done
  exact step_keeps_cfg running done

/-- Settles O29, from what each kind of step appends. -/
theorem historyOnlyGrows : Obligations.HistoryOnlyGrows := by
  intro s t done
  exact step_histories_prefix done

/-- Settles O55: BITAPPEND stores below the W-th bit, and decoding at the W-th empties the buffer. -/
theorem bitBufferNeverFull : Obligations.BitBufferNeverFull := by
  intro s t below done
  rcases execBitappend_cases done with ⟨room, rfl⟩ | ⟨-, byte⟩
  · have grown : (storeBit s).bbCnt = s.bbCnt + 1 := by simp [State.bbCnt]
    exact ⟨grown ▸ lt_of_le_of_ne below room, fun last => absurd last room⟩
  · exact ⟨byte.bbCnt ▸ Nat.zero_lt_of_lt below, fun _ => byte.bbCnt⟩

/-- Settles O11: the power-on record, read field by field and register by register. -/
theorem powerOnValues : Obligations.PowerOnValues := by
  refine ⟨rfl, rfl, rfl, rfl, rfl, rfl, rfl, rfl, rfl, rfl, rfl, rfl, rfl, rfl, fun r => ?_⟩
  cases r <;> rfl

/-- Settles O33: no session runs and nothing has been emitted. -/
theorem powerOnMeetsMachineInv : Obligations.PowerOnMeetsMachineInv := reset_machineInv

end Sys2Proof.Machine

/-!
SUPPORT. The gap steps of a block as a sequence (R89), and the step as the transaction at the front of the host's words
(R55, R61).
-/

namespace Sys2Proof.Machine

/-! ## Sequences of gap steps -/

@[simp] theorem andThen_next_right (r : Result) : andThen r .next = r := by
  cases r <;> rfl

@[simp] theorem runGaps_zero (g : Nat) : runGaps 0 g = .next := rfl

theorem runGaps_succ (n g : Nat) (s : State) : runGaps (n + 1) g s = andThen (gapStep g s) (runGaps n (g + 1)) := rfl

theorem runGaps_one (g : Nat) (s : State) : runGaps 1 g s = gapStep g s := by
  rw [runGaps_succ, runGaps_zero, andThen_next_right]

/-- R89: the first gap step comes before all later ones, so the induction peels it off on both sides. -/
theorem runGaps_add (m n g : Nat) (s : State) : runGaps (m + n) g s = andThen (runGaps m g s) (runGaps n (g + m)) := by
  induction m generalizing g s with
  | zero => simp
  | succ m ih =>
    have later : runGaps (m + n) (g + 1) = fun t => andThen (runGaps m (g + 1) t) (runGaps n (g + (m + 1))) := by
      funext t
      rw [ih, Nat.add_right_comm, Nat.add_assoc g m 1]
    calc runGaps (m + 1 + n) g s
        = andThen (gapStep g s) (runGaps (m + n) (g + 1)) := by rw [Nat.add_right_comm, runGaps_succ]
      _ = andThen (andThen (gapStep g s) (runGaps m (g + 1))) (runGaps n (g + (m + 1))) := by rw [later, andThen_assoc]
      _ = andThen (runGaps (m + 1) g s) (runGaps n (g + (m + 1))) := by rw [runGaps_succ]

/-! ## The obligations -/

/-- Settles O20, by induction on the number of the first gap steps. -/
theorem gapsRunInOrder : Obligations.GapsRunInOrder := ⟨runGaps_one, runGaps_add⟩

/-- Settles O8: with an empty stage port a step runs the host's words, and these decode to the transaction. -/
theorem stepRunsTransaction : Obligations.StepRunsTransaction := by
  intro s i rest port read
  rw [step_eq_runTransaction port, runTransaction_of_decode read]

end Sys2Proof.Machine

/-!
SUPPORT. The encoding (30_encoding.md): the fields of a header as numbers (R62, R71), the bytes of payload words (R47,
R68), what the decoder makes of a legal and of an illegal header, and from these the statements on encodings, on the step
and on the host's view.
-/

namespace Sys2Proof.Laws

/-! ## The fields of a header as numbers (R62, R64 to R66) -/

theorem opOf_eq (h : Word) : opOf h = h.toNat % 16 := by
  simp [opOf]

theorem subOf_eq_zero {h : Word} : subOf h = 0 ↔ h.toNat / 16 % 16 = 0 := by
  simp [subOf, BitVec.toNat_eq, Nat.shiftRight_eq_div_pow]

theorem argOf_toNat (h : Word) : (argOf h).toNat = h.toNat / 256 := by
  have := h.isLt
  simp [argOf, Nat.shiftRight_eq_div_pow]
  omega

theorem argOf_eq_zero {h : Word} : argOf h = 0 ↔ h.toNat / 256 = 0 := by
  rw [← argOf_toNat, BitVec.toNat_eq]
  rfl

theorem idxOf_eq (h : Word) : idxOf h = BitVec.ofNat 8 (h.toNat / 256) := by
  simp [idxOf, BitVec.toNat_eq, Nat.shiftRight_eq_div_pow]

theorem cfgwHigh_eq_zero {h : Word} : cfgwHigh h = 0 ↔ h.toNat / 65536 = 0 := by
  have := h.isLt
  simp [cfgwHigh, BitVec.toNat_eq, Nat.shiftRight_eq_div_pow]
  omega

theorem endHigh_eq_zero {h : Word} : endHigh h = 0 ↔ h.toNat / 32 % 8 = 0 := by
  simp [endHigh, BitVec.toNat_eq, Nat.shiftRight_eq_div_pow]

theorem reasonOf_eq (h : Word) : reasonOf h = decide (h.toNat / 16 % 2 = 1) := by
  simp [reasonOf, BitVec.getLsbD, Nat.testBit_eq_decide_div_mod_eq]

/-- The number of payload words as a number of the header (R69). -/
theorem payloadWords_eq (h : Word) :
    payloadWords h =
      if h.toNat % 16 = 1 then 1 else if h.toNat % 16 = 2 then (h.toNat / 256 + 3) / 4 else 0 := by
  unfold payloadWords
  rw [opOf_eq, argOf_toNat]
  split <;> simp_all

/-- A header passes R71's checks exactly in the forms of the opcode map. -/
theorem headerProblem_eq_none {h : Word} :
    headerProblem h = none ↔
      h.toNat = 0 ∨ (h.toNat % 256 = 1 ∧ h.toNat < 4096) ∨ h.toNat % 256 = 2 ∨ h.toNat = 3 ∨ h.toNat = 19 ∨
        h.toNat = 4 := by
  unfold headerProblem
  simp only [opOf_eq, subOf_eq_zero, argOf_eq_zero, cfgwHigh_eq_zero, endHigh_eq_zero, idxOf_eq, BitVec.toNat_ofNat]
  generalize h.toNat = n
  split
  case h_2 => -- CFGW: the index is checked after the must-be-zero bits
    split
    · simp only [ite_eq_left_iff, reduceCtorEq, imp_false, not_not]
      omega
    · simp only [reduceCtorEq, false_iff]
      omega
  all_goals
    simp only [ite_eq_left_iff, reduceCtorEq, imp_false, not_not, false_iff] at *
    omega

/-! ## The bytes of payload words (R47, R68) -/

@[simp] theorem unpackWords_nil : unpackWords [] = [] := rfl

@[simp] theorem unpackWords_cons (w : Word) (ws : List Word) :
    unpackWords (w :: ws) = unpackWord w ++ unpackWords ws := rfl

@[simp] theorem unpackWord_packWord (b0 b1 b2 b3 : Byte) : unpackWord (packWord b0 b1 b2 b3) = [b0, b1, b2, b3] := by
  have above0 (i : Nat) (le : 8 ≤ i) :
      (packWord b0 b1 b2 b3).extractLsb' i 8 = (b3 ++ b2 ++ b1).extractLsb' (i - 8) 8 :=
    BitVec.extractLsb'_append_eq_of_le le
  have above1 (i : Nat) (le : 8 ≤ i) : (b3 ++ b2 ++ b1).extractLsb' i 8 = (b3 ++ b2).extractLsb' (i - 8) 8 :=
    BitVec.extractLsb'_append_eq_of_le le
  have byte0 : (packWord b0 b1 b2 b3).extractLsb' 0 8 = b0 := BitVec.extractLsb'_append_eq_right
  have byte1 : (packWord b0 b1 b2 b3).extractLsb' 8 8 = b1 :=
    (above0 8 (by decide)).trans BitVec.extractLsb'_append_eq_right
  have byte2 : (packWord b0 b1 b2 b3).extractLsb' 16 8 = b2 :=
    (above0 16 (by decide)).trans ((above1 8 (by decide)).trans BitVec.extractLsb'_append_eq_right)
  have byte3 : (packWord b0 b1 b2 b3).extractLsb' 24 8 = b3 :=
    (above0 24 (by decide)).trans ((above1 16 (by decide)).trans BitVec.extractLsb'_append_eq_left)
  rw [unpackWord, byte0, byte1, byte2, byte3]

@[simp] theorem unpackWords_length (ws : List Word) : (unpackWords ws).length = 4 * ws.length := by
  induction ws with
  | nil => rfl
  | cons w ws ih =>
    simp [ih, unpackWord]
    omega

/-- Byte `i` of a payload is byte `i mod 4` of word `i div 4`, and 0 beyond the last word. -/
theorem unpackWords_getD (ws : List Word) (i : Nat) :
    ((unpackWords ws).getD i 0).toNat = (ws.getD (i / 4) 0).toNat / 2 ^ (8 * (i % 4)) % 256 := by
  induction ws generalizing i with
  | nil => simp
  | cons w ws ih =>
    rcases Nat.lt_or_ge i 4 with inWord | later
    · rw [Nat.div_eq_of_lt inWord, Nat.mod_eq_of_lt inWord]
      interval_cases i <;> simp [unpackWord, Nat.shiftRight_eq_div_pow]
    · obtain ⟨j, rfl⟩ := Nat.exists_eq_add_of_le' later
      have word : (j + 4) / 4 = j / 4 + 1 := by omega
      rw [word, Nat.add_mod_right, List.getD_cons_succ, ← ih]
      simp [unpackWord]

/-- The words of a byte list hold its bytes in order, and then zeros. -/
theorem unpackWords_packBytes (xs : List Byte) : ∃ k, unpackWords (packBytes xs) = xs ++ List.replicate k 0 := by
  induction xs using packBytes.induct with
  | case1 => exact ⟨0, rfl⟩
  | case2 => exact ⟨3, by simp [packBytes]⟩
  | case3 => exact ⟨2, by simp [packBytes]⟩
  | case4 => exact ⟨1, by simp [packBytes]⟩
  | case5 b0 b1 b2 b3 rest ih =>
    obtain ⟨k, padded⟩ := ih
    exact ⟨k, by simp [packBytes, padded]⟩

theorem unpackWords_packBytes_take (xs : List Byte) : (unpackWords (packBytes xs)).take xs.length = xs := by
  obtain ⟨k, padded⟩ := unpackWords_packBytes xs
  rw [padded, List.take_left]

/-! ## What the decoder makes of a header (R63 to R72) -/

/-- A header that fails a check is illegal by itself; as many of its words as are there go with it (R69, R72). -/
theorem decode_eq_illegal {h : Word} {rest r : List Word} {why : Illegal} :
    decode (h :: rest) = .illegal why r ↔ headerProblem h = some why ∧ r = rest.drop (payloadWords h) := by
  rw [decode]
  cases headerProblem h with
  | some _ => simp [eq_comm]
  | none =>
    simp only [reduceCtorEq, false_and, iff_false]
    split <;> simp

/-- A legal header with its payload words is a transaction, whatever words follow (R69). -/
theorem decode_of_legal {h : Word} {payload : List Word} (rest : List Word) (legal : headerProblem h = none)
    (complete : payload.length = payloadWords h) : decode (h :: (payload ++ rest)) = .ok (assemble h payload) rest := by
  simp [decode, legal, ← complete]

/-! ## The operands of a header of each form (R68) -/

theorem assemble_cfgw {h : Word} (op : h.toNat % 16 = 1) (payload : List Word) :
    assemble h payload = .cfgw (idxOf h) (payload.headD 0) := by
  simp [assemble, opOf_eq, op]

theorem assemble_block {h : Word} (op : h.toNat % 16 = 2) (payload : List Word) :
    assemble h payload = .block ((unpackWords payload).take (h.toNat / 256)) := by
  simp [assemble, opOf_eq, op, argOf_toNat]

theorem assemble_endSession {h : Word} (op : h.toNat % 16 = 3) (payload : List Word) :
    assemble h payload = .endSession (reasonOf h) := by
  simp [assemble, opOf_eq, op]

@[simp] theorem idxOf_header (idx : BitVec 8) (sub op : BitVec 4) :
    idxOf (header ((0#16 : BitVec 16) ++ idx) sub op) = idx := by
  ext i hi
  have h4 : ¬ 8 + i < 4 := by omega
  have field : ((0#16 : BitVec 16) ++ idx).getLsbD i = idx.getLsbD i := by
    refine BitVec.getLsbD_append.trans ?_
    simp [hi]
  simp [idxOf, header_bit, h4, hi, field]

/-! ## Decoding an encoding -/

/-- The words of an encoding decode to what its own header and payload words assemble to. -/
theorem decode_encoded {i : Instr} (law : EncodedLength.Statement i) (wf : i.wf = true) {h : Word} {payload : List Word}
    (encoded : encode i = .host (h :: payload)) (rest : List Word) :
    decode (hostWords i ++ rest) = .ok (assemble h payload) rest := by
  have words := law wf
  rw [encoded] at words
  obtain ⟨_, _, same, legal, length⟩ := words
  cases same
  rw [hostWords, encoded]
  refine decode_of_legal rest legal ?_
  simp [transactionLength] at length
  omega

/-- A transaction's words decode to it, whatever words follow (R62 to R69). -/
theorem decode_hostWords {i : Instr} (wf : i.wf = true) (transaction : i.isTransaction = true) (rest : List Word) :
    decode (hostWords i ++ rest) = .ok i rest := by
  cases i with
  | reset => exact decode_encoded EncodedLength.reset wf rfl rest
  | cfgw idx value =>
    rw [decode_encoded (EncodedLength.cfgw idx value) wf rfl]
    simp [assemble]
  | block samples =>
    rw [decode_encoded (EncodedLength.block samples) wf rfl]
    have fits : samples.length < 16777216 := of_decide_eq_true wf
    simp [assemble, Nat.mod_eq_of_lt fits, unpackWords_packBytes_take]
  | endSession reason =>
    rw [decode_encoded (EncodedLength.endSession reason) wf rfl]
    cases reason <;> rfl
  | cancel => exact decode_encoded EncodedLength.cancel wf rfl rest
  | _ => cases transaction

/-- A stage operation's code names it (R70). -/
theorem decodeEncoding_encode_stage {i : Instr} (stage : i.isTransaction = false) :
    decodeEncoding (encode i) = some i := by
  cases i with
  | reset | cfgw | block | endSession | cancel => cases stage
  | _ => rfl

theorem encode_transaction {i : Instr} (transaction : i.isTransaction = true) : encode i = .host (hostWords i) := by
  cases i with
  | reset | cfgw | block | endSession | cancel => rfl
  | _ => cases transaction

theorem decodeEncoding_encode_transaction {i : Instr} (wf : i.wf = true) (transaction : i.isTransaction = true) :
    decodeEncoding (encode i) = some i := by
  have alone := decode_hostWords wf transaction []
  rw [List.append_nil] at alone
  rw [encode_transaction transaction, decodeEncoding, alone]

/-! ## The obligations on encodings -/

/-- Settles O1: a transaction's words hold its own header and payload, and a stage code names its operation. -/
theorem decodeEncodeAgree : Obligations.DecodeEncodeAgree := by
  refine ⟨fun i wf => ?_, fun i rest wf transaction => decode_hostWords wf transaction rest⟩
  cases form : i.isTransaction with
  | true => exact decodeEncoding_encode_transaction wf form
  | false => exact decodeEncoding_encode_stage form

/-- Settles O3: a header decodes as illegal exactly when it fails a check. -/
theorem legalHeadersExactly : Obligations.LegalHeadersExactly := by
  intro h rest
  simp only [decode_eq_illegal, ← headerProblem_eq_none, exists_and_left, exists_eq, and_true]
  exact Option.ne_none_iff_exists'.symm

/-- Settles O5: a legal header decodes, and its operands are what it assembles to. -/
theorem operandsFromWords : Obligations.OperandsFromWords := by
  refine ⟨fun h v rest low below => ?_, fun h rest forms => ?_, fun h payload rest low length => ?_⟩
  · have op : h.toNat % 16 = 1 := by omega
    have decoded := decode_of_legal (h := h) (payload := [v]) rest (headerProblem_eq_none.mpr (by omega))
      (by simp [payloadWords_eq, op])
    rw [assemble_cfgw op, idxOf_eq] at decoded
    exact decoded
  · have op : h.toNat % 16 = 3 := by omega
    have reason : h.toNat / 16 % 2 = h.toNat / 16 := by omega
    have decoded := decode_of_legal (h := h) (payload := []) rest (headerProblem_eq_none.mpr (by omega))
      (by simp [payloadWords_eq, op])
    rw [assemble_endSession op, reasonOf_eq, reason] at decoded
    exact decoded
  · have op : h.toNat % 16 = 2 := by omega
    have decoded := decode_of_legal (h := h) rest (headerProblem_eq_none.mpr (by omega))
      (by simpa [payloadWords_eq, op] using length)
    rw [assemble_block op] at decoded
    refine ⟨_, decoded, ?_, fun i inBlock => ?_⟩
    · simp
      omega
    · rw [← unpackWords_getD]
      simp [List.getElem?_take_of_lt inBlock]

/-- Settles O2, by running the decoder on each word list. -/
theorem specWordsDecode : Obligations.SpecWordsDecode := by
  refine ⟨?_, ?_, ?_, ?_, ?_, ?_, ?_, ?_, ?_, ?_, ?_⟩ <;> decide

/-- Settles O6, by all 256 codes. -/
theorem stageCodesExactly : Obligations.StageCodesExactly := by
  unfold Obligations.StageCodesExactly
  decide

end Sys2Proof.Laws

namespace Sys2Proof.Machine

open Sys2Proof.Laws

/-! ## The step on an illegal transaction and on a stage code -/

theorem runTransaction_of_illegal {s : State} {why : Illegal} {rest : List Word} (h : decode s.rx = .illegal why rest) :
    runTransaction s = .next (illegalTransaction { s with rx := rest }) := by
  simp [runTransaction, h]

theorem step_eq_runStageCode {s : State} {code : Byte} (h : s.stagePort = some code) :
    step s = runStageCode code { s with stagePort := none } := by
  simp [step, h]

theorem runStageCode_running {s : State} {code : Byte} {i : Instr} (running : s.runState = .running)
    (named : decodeStage code = some i) : runStageCode code s = exec i s := by
  simp [runStageCode, running, named]

theorem runStageCode_outside {s : State} (code : Byte) (outside : s.runState ≠ .running) :
    runStageCode code s = .next s := by
  unfold runStageCode
  split
  · rfl
  · rfl
  · exact absurd ‹_› outside

/-- Settles O4: the words dropped follow from the header, and the illegal transaction runs on the state without them. -/
theorem illegalEncodingFaults : Obligations.IllegalEncodingFaults := by
  intro s h rest r why port words illegal
  have stepped : step s = .next (illegalTransaction { s with rx := r }) := by
    rw [step_eq_runTransaction port, runTransaction_of_illegal (words ▸ illegal)]
  refine ⟨?_, fun faulted => ?_, fun notFaulted => ?_⟩
  · rw [← payloadWords_eq]
    exact (decode_eq_illegal.mp illegal).2
  · rw [stepped, illegalTransaction_faulted (s := { s with rx := r }) faulted]
  · rw [stepped, illegalTransaction_raises (s := { s with rx := r }) notFaulted]
    rfl

/-- Settles O9, from what a code in the stage port does while a session runs and outside one. -/
theorem stepRunsStageCode : Obligations.StepRunsStageCode := by
  refine ⟨fun s code i port running named => ?_, fun s code port outside => ?_⟩
  · rw [step_eq_runStageCode port]
    exact runStageCode_running running named
  · rw [step_eq_runStageCode port]
    exact runStageCode_outside code outside

/-! ## The host's view (R40, R77, R78) -/

/-- The length word of a record holds the length in its low half, which fits it (R77). -/
theorem lengthWord_eq {n : Nat} (fits : n < 65536) : ((0#16 : BitVec 16) ++ BitVec.ofNat 16 n) = BitVec.ofNat 32 n := by
  apply BitVec.eq_of_toNat_eq
  refine (BitVec.toNat_append (0#16) (BitVec.ofNat 16 n)).trans ?_
  simp
  omega

/-- Settles O7: the words of a text unpack to its characters and then to zeros. -/
theorem outputRecordPacksText : Obligations.OutputRecordPacksText := by
  intro m fits
  obtain ⟨k, padded⟩ := unpackWords_packBytes m.text
  refine ⟨packBytes m.text, by rw [outputRecord, lengthWord_eq fits], packBytes_length _, fun j inText => ?_,
    fun j beyond _ => ?_⟩
  · rw [← unpackWords_getD, padded, List.getD_append _ _ _ _ inText]
  · rw [← unpackWords_getD, padded, List.getD_append_right _ _ _ _ beyond]
    simp

theorem RunState.code_injective : RunState.code.Injective := by
  intro a b
  cases a <;> cases b <;> decide

theorem FaultCode.code_injective : FaultCode.code.Injective := by
  intro a b
  cases a <;> cases b <;> decide

theorem TermReason.code_injective : TermReason.code.Injective := by
  intro a b
  cases a <;> cases b <;> decide

theorem DecoderState.code_injective : DecoderState.code.Injective := by
  intro a b
  cases a <;> cases b <;> decide

theorem msgLen_toNat {s : State} (fits : s.msgBuf.length < 65536) : s.msgLen.toNat = s.msgBuf.length := by
  rw [State.msgLen, BitVec.toNat_ofNat, Nat.mod_eq_of_lt fits]

/-- Settles O57: the codes of each register are distinct, and every other entry is the register itself. -/
theorem statusViewShowsRegisters : Obligations.StatusViewShowsRegisters := by
  intro s
  have run (r : RunState) : (statusView s).runState = r.code ↔ s.runState = r := RunState.code_injective.eq_iff
  have fault (c : FaultCode) : (statusView s).faultCode = c.code ↔ s.faultCode = c := FaultCode.code_injective.eq_iff
  have term (r : TermReason) : (statusView s).termReason = r.code ↔ s.termReason = r := TermReason.code_injective.eq_iff
  have decoder (d : DecoderState) : (statusView s).decoderState = d.code ↔ s.decoderState = d :=
    DecoderState.code_injective.eq_iff
  exact ⟨run .halted, run .running, run .faulted, fault .none, fault .configError, fault .illegalTransaction,
    term .none, term .endOfStream, term .acqError, term .cancelled,
    decoder .bitrateDetect, decoder .frame, decoder .interframe,
    rfl, rfl, rfl, rfl, rfl, rfl, rfl, rfl, fun _ => rfl, msgLen_toNat⟩

end Sys2Proof.Machine

/-!
SUPPORT. The host transactions (40_host_transactions.md): the configuration table (R80), what RESET, CFGW, END, CANCEL and a
BLOCK of the wrong length do in each case, and the stages of a gap step (R90).
-/

namespace Sys2Proof.Machine

/-! ## The configuration table (R80) -/

theorem read_of_holds {c : ConfigRegs} {r : CfgReg} (h : c.holds r = true) : c.read r = some (c.value r) := by
  obtain ⟨x, read⟩ := Option.isSome_iff_exists.mp h
  rw [read, value_of_read read]

theorem holds_of_read {c : ConfigRegs} {r : CfgReg} {x : Word} (h : c.read r = some x) : c.holds r = true :=
  Option.isSome_iff_exists.mpr ⟨x, h⟩

theorem word_le_one {x : Word} : x.toNat ≤ 1 ↔ x = 0 ∨ x = 1 := by
  bv_omega

theorem word_eq_zero {x : Word} : x.toNat = 0 ↔ x = 0 := by
  bv_omega

theorem word_eq_one {x : Word} : x.toNat = 1 ↔ x = 1 := by
  bv_omega

/-- Clause (1) of R80 on the registers that hold a value. -/
theorem legalPresent_iff {c : ConfigRegs} :
    legalPresent c = true ↔
      c.holds .g = true ∧ c.holds .a = true ∧ c.holds .v = true ∧ c.holds .d = true ∧ c.holds .w = true ∧
      c.holds .parityEn = true ∧ c.holds .parityOdd = true ∧ c.holds .autoEn = true ∧ c.holds .tolNum = true ∧
      c.holds .tolDen = true ∧ c.holds .maxMsg = true ∧
      (c.num .autoEn = 0 → c.holds .fixedBitrate = true) ∧
      (c.num .autoEn = 1 → c.holds .stopCount = true ∧ c.holds .detLo = true ∧ c.holds .detHi = true) := by
  simp only [legalPresent, Bool.and_eq_true, Bool.or_eq_true, decide_eq_true_eq, and_assoc, imp_iff_not_or, ne_eq]

/-- Clauses (2) to (9) of R80 on the values the stages read. -/
theorem configLegal_iff {c : ConfigRegs} :
    configLegal c = true ↔
      legalPresent c = true ∧
      1 ≤ c.num .g ∧ 1 ≤ c.num .a ∧ 1 ≤ c.num .v ∧ c.num .g * c.num .a * c.num .v ≤ 2 ^ 24 - 1 ∧
      c.num .d ≤ 1022 ∧
      c.num .parityEn ≤ 1 ∧ c.num .parityOdd ≤ 1 ∧ c.num .autoEn ≤ 1 ∧
      8 ≤ c.num .w ∧ c.num .w ≤ 32 ∧ (c.num .parityEn = 1 → 9 ≤ c.num .w) ∧
      c.num .tolNum ≤ 65535 ∧ 1 ≤ c.num .tolDen ∧ c.num .tolDen ≤ 65535 ∧ c.num .tolNum ≤ c.num .tolDen ∧
      c.num .maxMsg ≤ 65535 ∧
      (c.num .autoEn = 0 → 1 ≤ c.num .fixedBitrate) ∧
      (c.num .autoEn = 1 → 1 ≤ c.num .stopCount ∧ c.num .stopCount ≤ 1024 ∧ c.num .detLo < c.num .detHi ∧
        c.num .detHi ≤ c.num .stopCount) := by
  simp only [configLegal, legalLength, legalDepth, legalBits, legalWidth, legalRatio, legalMaxMsg, legalFixed, legalWindow,
    Bool.and_eq_true, Bool.or_eq_true, decide_eq_true_eq, and_assoc, ← imp_iff_not_or, ne_eq]
  rfl

/-- Settles O13: a register that holds a value holds the one the stages read, so each entry of the table is a clause. -/
theorem configLegalMeansTable : Obligations.ConfigLegalMeansTable := by
  intro c
  rw [configLegal_iff, legalPresent_iff]
  constructor
  · rintro ⟨⟨g, a, v, d, w, pe, po, ae, tn, td, mm, fixed, auto⟩, g1, a1, v1, len, depth, pe1, po1, ae1, w8, w32, w9,
      tn1, td0, td1, ratio, mm1, fixed1, window⟩
    refine ⟨_, _, _, _, _, _, _, _, _, _, _, read_of_holds g, read_of_holds a, read_of_holds v, read_of_holds d,
      read_of_holds w, read_of_holds pe, read_of_holds po, read_of_holds ae, read_of_holds tn, read_of_holds td,
      read_of_holds mm, g1, a1, v1, len, depth, word_le_one.mp pe1, word_le_one.mp po1, word_le_one.mp ae1, w8, w32,
      fun on => w9 (word_eq_one.mpr on), tn1, td0, td1, ratio, mm1, fun off => ?_, fun on => ?_⟩
    · have off := word_eq_zero.mpr off
      exact ⟨_, read_of_holds (fixed off), fixed1 off⟩
    · have on := word_eq_one.mpr on
      obtain ⟨sc, lo, hi⟩ := auto on
      exact ⟨_, _, _, read_of_holds sc, read_of_holds lo, read_of_holds hi, window on⟩
  · rintro ⟨g, a, v, d, w, pe, po, ae, tn, td, mm, hg, ha, hv, hd, hw, hpe, hpo, hae, htn, htd, hmm, table⟩
    obtain rfl : c.value .g = g := value_of_read hg
    obtain rfl : c.value .a = a := value_of_read ha
    obtain rfl : c.value .v = v := value_of_read hv
    obtain rfl : c.value .d = d := value_of_read hd
    obtain rfl : c.value .w = w := value_of_read hw
    obtain rfl : c.value .parityEn = pe := value_of_read hpe
    obtain rfl : c.value .parityOdd = po := value_of_read hpo
    obtain rfl : c.value .autoEn = ae := value_of_read hae
    obtain rfl : c.value .tolNum = tn := value_of_read htn
    obtain rfl : c.value .tolDen = td := value_of_read htd
    obtain rfl : c.value .maxMsg = mm := value_of_read hmm
    obtain ⟨g1, a1, v1, len, depth, pe1, po1, ae1, w8, w32, w9, tn1, td0, td1, ratio, mm1, fixed, auto⟩ := table
    have fixed (off : c.num .autoEn = 0) : c.holds .fixedBitrate = true ∧ 1 ≤ c.num .fixedBitrate := by
      obtain ⟨fb, read, positive⟩ := fixed (word_eq_zero.mp off)
      obtain rfl : c.value .fixedBitrate = fb := value_of_read read
      exact ⟨holds_of_read read, positive⟩
    have auto (on : c.num .autoEn = 1) : (c.holds .stopCount = true ∧ c.holds .detLo = true ∧ c.holds .detHi = true) ∧
        1 ≤ c.num .stopCount ∧ c.num .stopCount ≤ 1024 ∧ c.num .detLo < c.num .detHi ∧ c.num .detHi ≤ c.num .stopCount := by
      obtain ⟨sc, lo, hi, hsc, hlo, hhi, window⟩ := auto (word_eq_one.mp on)
      obtain rfl : c.value .stopCount = sc := value_of_read hsc
      obtain rfl : c.value .detLo = lo := value_of_read hlo
      obtain rfl : c.value .detHi = hi := value_of_read hhi
      exact ⟨⟨holds_of_read hsc, holds_of_read hlo, holds_of_read hhi⟩, window⟩
    exact ⟨⟨holds_of_read hg, holds_of_read ha, holds_of_read hv, holds_of_read hd, holds_of_read hw, holds_of_read hpe,
      holds_of_read hpo, holds_of_read hae, holds_of_read htn, holds_of_read htd, holds_of_read hmm,
      fun off => (fixed off).1, fun on => (auto on).1⟩, g1, a1, v1, len, depth, word_le_one.mpr pe1, word_le_one.mpr po1,
      word_le_one.mpr ae1, w8, w32, fun on => w9 (word_eq_one.mp on), tn1, td0, td1, ratio, mm1,
      fun off => (fixed off).2, fun on => (auto on).2⟩

/-! ## RESET, CFGW, END, CANCEL and a BLOCK of the wrong length (R79, R81, R84 to R88) -/

/-- A reserved index is an illegal transaction in every `run_state` (R72, R81). -/
theorem execCfgw_of_reserved {idx : BitVec 8} (h : 16 ≤ idx.toNat) (value : Word) (s : State) :
    execCfgw idx value s = .next (illegalTransaction s) := by
  simp [execCfgw, ofIndex_eq_none.mpr h]

theorem exists_ofIndex {idx : BitVec 8} (h : idx.toNat < 16) : ∃ r, CfgReg.ofIndex idx = some r :=
  Option.ne_none_iff_exists'.mp fun reserved => absurd (ofIndex_eq_none.mp reserved) (by omega)

theorem execCfgw_of_running {idx : BitVec 8} {r : CfgReg} {s : State} (named : CfgReg.ofIndex idx = some r)
    (running : s.runState = .running) (value : Word) :
    execCfgw idx value s = .next (raiseFault .illegalTransaction s) := by
  simp [execCfgw, named, running]

theorem execCfgw_of_outside {idx : BitVec 8} {r : CfgReg} {s : State} (named : CfgReg.ofIndex idx = some r)
    (outside : s.runState ≠ .running) (value : Word) :
    execCfgw idx value s = .next { s with cfg := s.cfg.write value r } := by
  cases run : s.runState with
  | running => exact absurd run outside
  | halted | faulted => simp [execCfgw, named, run]

/-- A register is the one an index names exactly when it has that index (R29). -/
theorem eq_iff_index_eq {idx : BitVec 8} {r q : CfgReg} (named : CfgReg.ofIndex idx = some r) :
    q = r ↔ q.index = idx.toNat := by
  rw [← ofIndex_eq_some, named, Option.some_inj, eq_comm]

/-- In a running session the length of a block decides (R84 to R86). -/
theorem execBlock_of_running {s : State} (running : s.runState = .running) (xs : List Byte) :
    execBlock xs s =
      if s.cfg.blockLength < xs.length then .next (raiseFault .illegalTransaction s)
      else if xs.length < s.cfg.blockLength then .next (terminate .acqError s)
      else processBlock xs s := by
  simp only [execBlock, running]

theorem execBlock_of_halted {s : State} (halted : s.runState = .halted) (xs : List Byte) :
    execBlock xs s = .next (raiseFault .illegalTransaction s) := by
  simp only [execBlock, halted]

theorem execBlock_of_faulted {s : State} (faulted : s.runState = .faulted) (xs : List Byte) :
    execBlock xs s = .next s := by
  simp only [execBlock, faulted]

theorem execEnd_of_running {reason : Bool} {s : State} (running : s.runState = .running) :
    execEnd reason s = .next (terminate (if reason then .acqError else .endOfStream) s) := by
  simp only [execEnd, running]

theorem execEnd_of_halted {reason : Bool} {s : State} (halted : s.runState = .halted) :
    execEnd reason s = .next (raiseFault .illegalTransaction s) := by
  simp only [execEnd, halted]

theorem execEnd_of_faulted {reason : Bool} {s : State} (faulted : s.runState = .faulted) :
    execEnd reason s = .next s := by
  simp only [execEnd, faulted]

theorem execCancel_of_running {s : State} (running : s.runState = .running) :
    execCancel s = .next (terminate .cancelled s) := by
  simp only [execCancel, running]

theorem execCancel_of_outside {s : State} (outside : s.runState ≠ .running) : execCancel s = .next s := by
  cases run : s.runState with
  | running => exact absurd run outside
  | halted | faulted => simp only [execCancel, run]

theorem execReset_of_legal {s : State} (legal : configLegal s.cfg = true) : execReset s = .next (startSession s) :=
  if_pos legal

theorem execReset_of_illegal {s : State} (illegal : configLegal s.cfg = false) :
    execReset s = .next (raiseFault .configError s) :=
  if_neg (Bool.eq_false_iff.mp illegal)

/-- Settles O12: the configuration check decides between a new session and the fault. -/
theorem resetStartsSession : Obligations.ResetStartsSession :=
  fun _ => ⟨execReset_of_legal, execReset_of_illegal⟩

/-- Settles O14, by the index and the `run_state`. -/
theorem cfgwWritesOneRegister : Obligations.CfgwWritesOneRegister := by
  refine fun idx value s => ⟨fun reserved faulted => ?_, ?_, fun legal outside => ?_⟩
  · exact (execCfgw_of_reserved reserved value s).trans (congrArg _ (illegalTransaction_faulted faulted))
  · rintro (⟨reserved, notFaulted⟩ | ⟨legal, running⟩)
    · exact (execCfgw_of_reserved reserved value s).trans (congrArg _ (illegalTransaction_raises notFaulted))
    · obtain ⟨r, named⟩ := exists_ofIndex legal
      exact execCfgw_of_running named running value
  · obtain ⟨r, named⟩ := exists_ofIndex legal
    refine ⟨_, execCfgw_of_outside named outside value, fun q => ?_⟩
    simp only [read_write, eq_iff_index_eq named]

/-- Settles O15, by the `run_state`. -/
theorem endTerminates : Obligations.EndTerminates :=
  fun _ _ => ⟨execEnd_of_running, execEnd_of_halted, execEnd_of_faulted⟩

/-- Settles O16, by the `run_state`. -/
theorem cancelTerminates : Obligations.CancelTerminates :=
  fun _ => ⟨execCancel_of_running, execCancel_of_outside⟩

/-- Settles O17, by the `run_state` and the length. -/
theorem blockOfWrongLength : Obligations.BlockOfWrongLength := by
  refine fun xs s => ⟨fun faulted => execBlock_of_faulted faulted xs, ?_, fun running short => ?_⟩
  · rintro (halted | ⟨running, long⟩)
    · exact execBlock_of_halted halted xs
    · exact (execBlock_of_running running xs).trans (if_pos long)
  · exact (execBlock_of_running running xs).trans ((if_neg short.not_gt).trans (if_pos short))

/-! ## The stages of a gap step (R90) -/

theorem decodeStageOfGap_eq (s : State) :
    decodeStageOfGap s =
      exec (if s.decoderState = .bitrateDetect then (if s.cfg.num .autoEn = 0 then .brfix else .brauto) else .bitdet) s := by
  cases detecting : s.decoderState with
  | bitrateDetect =>
    simp only [decodeStageOfGap, detecting, if_true]
    split <;> rfl
  | frame | interframe =>
    simp only [decodeStageOfGap, detecting, reduceCtorEq, if_false]
    rfl

/-- Settles O19: the gap step is its stages in sequence. -/
theorem gapStepRunsStages : Obligations.GapStepRunsStages := by
  intro g s s1 s2 s3 s4 avg gapdet debounce decoder
  calc gapStep g s
      = andThen (exec .avg { s with work.gap := g }) fun s1 => andThen (exec .gapdet s1) fun s2 =>
          andThen (exec .debounce s2) fun s3 => andThen (decodeStageOfGap s3) (exec .gapend) := rfl
    _ = exec .gapend s4 := by
      rw [avg, andThen_next, gapdet, andThen_next, debounce, andThen_next, decodeStageOfGap_eq, decoder, andThen_next]

/-- Settles O21: a gap step leaves the messages as they are, or runs MSGEMIT once on what it finds. -/
theorem gapStepEmitsAtMostOnce : Obligations.GapStepEmitsAtMostOnce := by
  intro g s t done
  cases gapStep_emitsAtMostOnce done with
  | silent same => exact .inl same.out
  | emitted unspent same => exact .inr same.out

end Sys2Proof.Machine

/-!
SUPPORT. A BLOCK of the right length (R84, R89): when its gap steps complete, what they emit and keep, and which samples each
of them reads.
-/

namespace Sys2Proof.Machine

/-! ## When a stage completes (R128) -/

/-- A result that is a next state, or else the overflow of the sequence numbers where `spent` says that they are spent. -/
inductive CompletesUnless (spent : Bool) : Result → Prop
  | next (t : State) : CompletesUnless spent (.next t)
  | overflow (h : spent = true) : CompletesUnless spent (.refused .sequenceOverflow)

theorem CompletesUnless.exists_next {r : Result} (h : CompletesUnless false r) : ∃ t, r = .next t := by
  cases h with
  | next t => exact ⟨t, rfl⟩
  | overflow spent => cases spent

theorem CompletesUnless.andThen {spent : Bool} {r : Result} {f : State → Result} (h : CompletesUnless spent r)
    (hf : ∀ t, CompletesUnless spent (f t)) : CompletesUnless spent (andThen r f) := by
  cases h with
  | next t => exact hf t
  | overflow spent => exact .overflow spent

theorem execMsgemit_completes (s : State) : CompletesUnless s.seqSpent (execMsgemit s) := by
  unfold execMsgemit
  split
  · exact .overflow ‹_›
  · exact .next _

theorem execDelimClose_completes (s : State) : CompletesUnless s.seqSpent (execDelimClose s) :=
  (execMsgemit_completes s).andThen fun _ => .next _

theorem execBytedone_completes (s : State) : CompletesUnless s.seqSpent (execBytedone s) := by
  unfold execBytedone
  dsimp only
  split
  · split
    · exact execDelimClose_completes (decodeByte s)
    · exact .next _
  · split <;> exact .next _

theorem execBitappend_completes (s : State) : CompletesUnless s.seqSpent (execBitappend s) := by
  unfold execBitappend
  dsimp only
  split
  · exact execBytedone_completes (storeBit s)
  · exact .next _

theorem execIfbit_completes (s : State) : CompletesUnless s.seqSpent (execIfbit s) := by
  unfold execIfbit
  split <;> exact .next _

theorem routeBit_completes (s : State) : CompletesUnless s.seqSpent (routeBit s) := by
  unfold routeBit
  split
  · exact execBitappend_completes s
  · exact execIfbit_completes s
  · exact execIfbit_completes s

theorem execBitdet_completes (s : State) : CompletesUnless s.seqSpent (execBitdet s) := by
  unfold execBitdet
  split
  · exact routeBit_completes { s with nSame := 0, work.bit := s.work.d }
  · split
    · exact routeBit_completes { s with nSame := s.tolerance, work.bit := s.work.d }
    · exact .next _

theorem execBrauto_completes (s : State) : CompletesUnless s.seqSpent (execBrauto s) := by
  rcases execBrauto_cases s with ⟨-, e⟩ | ⟨-, -, e⟩ | ⟨-, -, e⟩ <;> exact e ▸ .next _

theorem decodeStageOfGap_completes (s : State) : CompletesUnless s.seqSpent (decodeStageOfGap s) := by
  unfold decodeStageOfGap
  split
  · split
    · exact .next _
    · exact execBrauto_completes s
  · exact execBitdet_completes s
  · exact execBitdet_completes s

/-- A gap step completes as long as the numbers last (R91, R128). -/
theorem gapStep_completes (g : Nat) (s : State) : CompletesUnless s.seqSpent (gapStep g s) :=
  (decodeStageOfGap_completes (afterSignalPath g s)).andThen fun _ => .next _

/-! ## Gap steps as long as the numbers last (R128) -/

/-- The numbers last for `n` gap steps, each of which may emit a message. -/
def NumbersLast (n : Nat) (s : State) : Prop :=
  n = 0 ∨ s.seqSpent = false ∧ s.seq.toNat + n ≤ 2 ^ 32

theorem SameNumbering.numbersLast {n : Nat} {s t : State} (same : SameNumbering s t) (h : NumbersLast n s) :
    NumbersLast n t := by
  rw [NumbersLast, same.seqSpent, same.seq]
  exact h

theorem emitMsg_numbersLast {n : Nat} {s : State} (h : s.seq.toNat + (n + 1) ≤ 2 ^ 32) : NumbersLast n (emitMsg s) := by
  cases spent : (emitMsg s).seqSpent with
  | true =>
    have last : s.seq.toNat = 4294967295 := of_decide_eq_true spent
    exact .inl (by omega)
  | false => exact .inr ⟨spent, by rw [emitMsg_seq_toNat spent]; omega⟩

theorem EmitsAtMostOnce.numbersLast {n : Nat} {s t : State} (step : EmitsAtMostOnce s t)
    (h : s.seqSpent = false ∧ s.seq.toNat + (n + 1) ≤ 2 ^ 32) : NumbersLast n t := by
  obtain ⟨unspent, room⟩ := h
  cases step with
  | silent same => exact same.numbersLast (.inr ⟨unspent, by omega⟩)
  | emitted _ same => exact same.numbersLast (emitMsg_numbersLast room)

theorem runGaps_completes {n g : Nat} {s : State} (h : NumbersLast n s) : ∃ t, runGaps n g s = .next t := by
  induction n generalizing g s with
  | zero => exact ⟨s, rfl⟩
  | succ n ih =>
    obtain none | ⟨unspent, room⟩ := h
    · cases none
    · have completes := gapStep_completes g s
      rw [unspent] at completes
      obtain ⟨u, first⟩ := completes.exists_next
      obtain ⟨t, later⟩ := ih (g := g + 1) ((gapStep_emitsAtMostOnce first).numbersLast ⟨unspent, room⟩)
      exact ⟨t, by rw [runGaps_succ, first, andThen_next, later]⟩

/-! ## What gap steps emit (R128) -/

theorem EmitsAtMostOnce.out_append {s t : State} (step : EmitsAtMostOnce s t) :
    ∃ msgs, t.out = s.out ++ msgs ∧ msgs.length ≤ 1 := by
  cases step with
  | silent same => exact ⟨[], by simp [same.out], by simp⟩
  | emitted _ same => exact ⟨_, same.out, le_rfl⟩

/-- Each gap step emits at most one message, so `n` of them emit at most `n`. -/
theorem runGaps_out_append {n g : Nat} {s t : State} (done : runGaps n g s = .next t) :
    ∃ msgs, t.out = s.out ++ msgs ∧ msgs.length ≤ n := by
  induction n generalizing g s with
  | zero => cases done; exact ⟨[], by simp, le_rfl⟩
  | succ n ih =>
    obtain ⟨u, first, later⟩ := andThen_eq_next.mp done
    obtain ⟨one, out, atMostOne⟩ := (gapStep_emitsAtMostOnce first).out_append
    obtain ⟨rest, restOut, atMost⟩ := ih later
    exact ⟨one ++ rest, by rw [restOut, out, List.append_assoc], by rw [List.length_append]; omega⟩

/-! ## A settled bitrate (R110) -/

/-- The bitrate has been settled, with these values. -/
structure Settled (bitrate tolerance : Word) (s : State) : Prop where
  decoderState : s.decoderState ≠ .bitrateDetect
  bitrate : s.bitrate = bitrate
  tolerance : s.tolerance = tolerance

theorem DecoderStep.keeps_settled {b tl : Word} {s t : State} (step : DecoderStep s t) (h : Settled b tl s) :
    Settled b tl t := by
  cases step with
  | fixed detecting | unchanged detecting | recorded detecting | estimated detecting => exact absurd detecting h.decoderState
  | noBit => exact h
  | stored | skipped => exact ⟨h.decoderState, h.bitrate, h.tolerance⟩
  | decoded frame n _ _ byte =>
    obtain ⟨kept, -⟩ := byte.frame
    exact ⟨byte.decoderState_ne_bitrateDetect frame, kept.bitrate.trans h.bitrate, kept.tolerance.trans h.tolerance⟩
  | resumed => exact ⟨by simp, h.bitrate, h.tolerance⟩

theorem gapStep_keeps_settled {b tl : Word} {g : Nat} {s t : State} (h : Settled b tl s) (done : gapStep g s = .next t) :
    Settled b tl t := by
  obtain ⟨u, stage, rfl⟩ := gapStep_eq_next.mp done
  obtain ⟨settled, bitrate, tolerance⟩ := (decodeStageOfGap_cases stage).keeps_settled (s := afterSignalPath g s) { h with }
  exact ⟨settled, bitrate, tolerance⟩

/-! ## The whole block -/

/-- The state in which the gap steps of a block begin: the block is latched (R38, R84). -/
def blockStarted (xs : List Byte) (s : State) : State := { s with work := { Work.idle with block := xs } }

theorem blockStarted_sessionInv {s : State} (h : SessionInv s) (xs : List Byte) : SessionInv (blockStarted xs s) :=
  { h with }

theorem blockStarted_settled {s : State} (h : s.decoderState ≠ .bitrateDetect) (xs : List Byte) :
    Settled s.bitrate s.tolerance (blockStarted xs s) :=
  ⟨h, rfl, rfl⟩

theorem runGaps_keeps_settled {b tl : Word} {n g : Nat} {s t : State} (h : Settled b tl s)
    (done : runGaps n g s = .next t) : Settled b tl t :=
  runGaps_induction (fun _ _ _ settled gap => gapStep_keeps_settled settled gap) h done

theorem runGaps_sessionInv {n g : Nat} {s t : State} (h : SessionInv s) (done : runGaps n g s = .next t) : SessionInv t :=
  runGaps_induction (fun _ _ _ session gap => gapStep_sessionInv session gap) h done

theorem execBlock_of_length {xs : List Byte} {s : State} (running : s.runState = .running)
    (length : xs.length = s.cfg.blockLength) : execBlock xs s = processBlock xs s := by
  rw [execBlock_of_running running, if_neg length.not_gt, if_neg length.not_lt]

/-- Settles O18: each gap step completes while the numbers last, and keeps what the block is to keep. -/
theorem blockRunsItsGaps : Obligations.BlockRunsItsGaps := by
  intro xs s running session unspent numbers length
  have last : NumbersLast (s.cfg.num .g) (blockStarted xs s) := .inr ⟨unspent, numbers⟩
  obtain ⟨u, gaps⟩ := runGaps_completes (g := 0) last
  obtain ⟨msgs, out, atMost⟩ := runGaps_out_append gaps
  have frame := runGaps_frame gaps
  have kept : SessionInv u := runGaps_sessionInv (blockStarted_sessionInv session xs) gaps
  have block : exec (.block xs) s = .next { u with work := Work.idle } :=
    (execBlock_of_length running length).trans (processBlock_eq_next.mpr ⟨u, gaps, rfl⟩)
  refine ⟨_, u, msgs, gaps, block, rfl, out, atMost, frame.runState.trans running, frame.faultCode, frame.termReason,
    frame.cfg, frame.faults, frame.rx, frame.stagePort, frame.runStart, { kept with }, fun settled => ?_⟩
  obtain ⟨decoderState, bitrate, tolerance⟩ := runGaps_keeps_settled (blockStarted_settled settled xs) gaps
  exact ⟨decoderState, bitrate, tolerance⟩

/-! ## The samples of a gap (R94) -/

theorem memRead_congr {xs ys : List Byte} {i n : Nat} (hx : i + n ≤ xs.length) (hy : i + n ≤ ys.length)
    (agree : ∀ j, i ≤ j → j < i + n → xs.getD j 0 = ys.getD j 0) : memRead xs i n = memRead ys i n := by
  rw [memRead_eq hx, memRead_eq hy]
  refine List.ext_getElem (by simp; omega) fun k inX inY => ?_
  simp only [List.length_take, List.length_drop, lt_min_iff] at inX inY
  have same := agree (i + k) (by omega) (by omega)
  rw [List.getD_eq_getElem _ _ (by omega), List.getD_eq_getElem _ _ (by omega)] at same
  simpa using same

/-- Window `a` of gap `g` lies within the samples the gap owns (R94). -/
theorem window_bounds {g a A V : Nat} (h : a < A) :
    g * (A * V) ≤ (g * A + a) * V ∧ (g * A + a) * V + V ≤ (g + 1) * (A * V) := by
  have last : a * V + V ≤ A * V := by
    rw [← Nat.add_one_mul]
    exact Nat.mul_le_mul_right V h
  rw [Nat.add_mul, Nat.mul_assoc, Nat.add_one_mul]
  omega

theorem gapAverages_congr {c : ConfigRegs} {xs ys : List Byte} {g : Nat}
    (hx : (g + 1) * (c.num .a * c.num .v) ≤ xs.length) (hy : (g + 1) * (c.num .a * c.num .v) ≤ ys.length)
    (agree : ∀ i, g * (c.num .a * c.num .v) ≤ i → i < (g + 1) * (c.num .a * c.num .v) → xs.getD i 0 = ys.getD i 0) :
    gapAverages c xs g = gapAverages c ys g := by
  refine List.map_congr_left fun a inGap => ?_
  obtain ⟨first, last⟩ := window_bounds (g := g) (V := c.num .v) (List.mem_range.mp inGap)
  rw [windowSum, windowSum, memRead_congr (last.trans hx) (last.trans hy) fun j above below =>
    agree j (first.trans above) (below.trans_le last)]

/-! ## No stage after AVG reads the block (R90) -/

/-- The state with another block in the latch. -/
def withBlock (ys : List Byte) (s : State) : State := { s with work.block := ys }

/-- An update that neither reads nor writes the latched block. -/
def KeepsBlock (f : State → State) : Prop :=
  ∀ (ys : List Byte) (s : State), f (withBlock ys s) = withBlock ys (f s)

/-- An operation that does not read the latched block: with another block it does the same, and leaves that block. -/
def IgnoresBlock (f : State → Result) : Prop :=
  ∀ (ys : List Byte) (s : State), f (withBlock ys s) = andThen (f s) fun t => .next (withBlock ys t)

theorem KeepsBlock.next {f : State → State} (h : KeepsBlock f) : IgnoresBlock fun s => .next (f s) :=
  fun ys s => congrArg _ (h ys s)

theorem IgnoresBlock.comp {f : State → Result} {u : State → State} (hf : IgnoresBlock f) (hu : KeepsBlock u) :
    IgnoresBlock fun s => f (u s) := fun ys s =>
  (congrArg f (hu ys s)).trans (hf ys (u s))

theorem IgnoresBlock.refused (e : Refusal) : IgnoresBlock fun _ => .refused e :=
  fun _ _ => rfl

theorem IgnoresBlock.andThen {f k : State → Result} (hf : IgnoresBlock f) (hk : IgnoresBlock k) :
    IgnoresBlock fun s => andThen (f s) k := fun ys s => by
  have later : (fun t => k (withBlock ys t)) = fun t => Machine.andThen (k t) fun u => .next (withBlock ys u) :=
    funext (hk ys)
  simp only [hf ys s, andThen_assoc, andThen_next, later]

theorem IgnoresBlock.ite {c : State → Prop} [DecidablePred c] {f k : State → Result}
    (hc : ∀ ys s, c (withBlock ys s) = c s) (hf : IgnoresBlock f) (hk : IgnoresBlock k) :
    IgnoresBlock fun s => if c s then f s else k s := by
  intro ys s
  by_cases h : c s
  · simpa only [hc ys s, if_pos h] using hf ys s
  · simpa only [hc ys s, if_neg h] using hk ys s

theorem keepsBlock_id : KeepsBlock fun s => s := fun _ _ => rfl
theorem storeBit_keepsBlock : KeepsBlock storeBit := fun _ _ => rfl
theorem decodeByte_keepsBlock : KeepsBlock decodeByte := fun _ _ => rfl
theorem recordInterval_keepsBlock : KeepsBlock recordInterval := fun _ _ => rfl

theorem emitMsg_keepsBlock : KeepsBlock emitMsg := fun ys s => by
  dsimp only [emitMsg, withBlock]

theorem appendChar_keepsBlock (ch : Byte) : KeepsBlock (appendChar ch) := fun ys s => by
  simp only [appendChar, apply_ite (withBlock ys)]
  rfl

theorem execMsgemit_ignoresBlock : IgnoresBlock execMsgemit :=
  .ite (fun _ _ => rfl) (.refused _) emitMsg_keepsBlock.next

theorem execDelimClose_ignoresBlock : IgnoresBlock execDelimClose :=
  execMsgemit_ignoresBlock.andThen (KeepsBlock.next fun _ _ => rfl)

theorem execDelimOpen_ignoresBlock : IgnoresBlock execDelimOpen :=
  KeepsBlock.next fun _ _ => rfl

theorem execPayload_ignoresBlock : IgnoresBlock execPayload :=
  KeepsBlock.next fun ys s => appendChar_keepsBlock _ ys s

theorem execBytedone_ignoresBlock : IgnoresBlock execBytedone :=
  .ite (fun _ _ => rfl)
    (.ite (fun _ _ => rfl) (execDelimClose_ignoresBlock.comp decodeByte_keepsBlock)
      (execDelimOpen_ignoresBlock.comp decodeByte_keepsBlock))
    (.ite (fun _ _ => rfl) (execPayload_ignoresBlock.comp decodeByte_keepsBlock) decodeByte_keepsBlock.next)

theorem execBitappend_ignoresBlock : IgnoresBlock execBitappend :=
  .ite (fun _ _ => rfl) (execBytedone_ignoresBlock.comp storeBit_keepsBlock) storeBit_keepsBlock.next

theorem execIfbit_ignoresBlock : IgnoresBlock execIfbit :=
  .ite (fun _ _ => rfl) keepsBlock_id.next (KeepsBlock.next fun _ _ => rfl)

theorem routeBit_ignoresBlock : IgnoresBlock routeBit := by
  intro ys s
  unfold routeBit
  have same : (withBlock ys s).decoderState = s.decoderState := rfl
  rw [same]
  split
  · exact execBitappend_ignoresBlock ys s
  · exact execIfbit_ignoresBlock ys s
  · exact execIfbit_ignoresBlock ys s

theorem execBitdet_ignoresBlock : IgnoresBlock execBitdet :=
  .ite (fun _ _ => rfl) (routeBit_ignoresBlock.comp fun _ _ => rfl)
    (.ite (fun _ _ => rfl) (routeBit_ignoresBlock.comp fun _ _ => rfl) keepsBlock_id.next)

theorem execBrauto_ignoresBlock : IgnoresBlock execBrauto :=
  .ite (fun _ _ => rfl)
    (.ite (fun _ _ => rfl) (KeepsBlock.next fun _ _ => rfl) recordInterval_keepsBlock.next) keepsBlock_id.next

theorem decodeStageOfGap_ignoresBlock : IgnoresBlock decodeStageOfGap := by
  intro ys s
  unfold decodeStageOfGap
  have state : (withBlock ys s).decoderState = s.decoderState := rfl
  have cfg : (withBlock ys s).cfg = s.cfg := rfl
  rw [state, cfg]
  split
  · split
    · rfl
    · exact execBrauto_ignoresBlock ys s
  · exact execBitdet_ignoresBlock ys s
  · exact execBitdet_ignoresBlock ys s

/-- With the averages of the gap the same, AVG, GAPDET and DEBOUNCE do the same. -/
theorem afterSignalPath_withBlock {g : Nat} {xs ys : List Byte} {s : State}
    (same : gapAverages s.cfg xs g = gapAverages s.cfg ys g) :
    afterSignalPath g (withBlock ys s) = withBlock ys (afterSignalPath g (withBlock xs s)) := by
  simp only [afterSignalPath, withBlock, same]

/-- Settles O24: the averages of the gap are the same, and no later stage reads the block. -/
theorem gapOwnsItsSamples : Obligations.GapOwnsItsSamples := by
  intro g s t xs ys hx hy agree done
  obtain ⟨u, stage, rfl⟩ := gapStep_eq_next.mp done
  have signal := afterSignalPath_withBlock (s := s) (gapAverages_congr hx hy agree)
  refine gapStep_eq_next.mpr ⟨withBlock ys u, ?_, rfl⟩
  have stage : decodeStageOfGap (afterSignalPath g (withBlock xs s)) = .next u := stage
  calc decodeStageOfGap (afterSignalPath g (withBlock ys s))
      = decodeStageOfGap (withBlock ys (afterSignalPath g (withBlock xs s))) := by rw [signal]
    _ = .next (withBlock ys u) := by rw [decodeStageOfGap_ignoresBlock, stage, andThen_next]

end Sys2Proof.Machine

/-!
SUPPORT. The signal path (41_signal_path.md): the averages as sums of samples (R93), the summed differences (R95), what
DEBOUNCE makes of its register by whether the entering sub-bit agrees with the slot that becomes the oldest (R97), and the
debounced sub-bits of a run (R99 to R101, R158).
-/

namespace Sys2Proof.Machine

/-! ## Averages (R93, R94) -/

/-- Inside the block, the samples of a window by their indices (R12). -/
theorem memRead_eq_map {block : List Byte} {i n : Nat} (h : i + n ≤ block.length) :
    memRead block i n = (List.range n).map fun v => block.getD (i + v) 0 := by
  rw [memRead_eq h]
  refine List.ext_getElem (by simp; omega) fun k _ inRange => ?_
  have inWindow : k < n := by simpa using inRange
  have inBlock : i + k < block.length := by omega
  simp [inBlock]

theorem windowSum_eq_sum {block : List Byte} {i n : Nat} (h : i + n ≤ block.length) :
    windowSum block i n = ∑ v ∈ Finset.range n, (block.getD (i + v) 0).toNat := by
  rw [windowSum, memRead_eq_map h, List.map_map]
  rfl

/-- Settles O34: each window lies within the block, so MemRead reads the block's own samples. -/
theorem avgSumsWindows : Obligations.AvgSumsWindows := by
  intro s holdsGap
  refine ⟨gapAverages s.cfg s.work.block s.work.gap, rfl, by simp [gapAverages], fun a inGap => ?_⟩
  obtain ⟨-, last⟩ := window_bounds (g := s.work.gap) (V := s.cfg.num .v) inGap
  rw [← windowSum_eq_sum (last.trans holdsGap)]
  simp [gapAverages, inGap]

/-! ## Differences (R95) -/

theorem diffSum_eq_sum (avg : List Nat) :
    (diffSum avg : Int) = ∑ i ∈ Finset.range (avg.length - 1), |(avg.getD (i + 1) 0 : Int) - (avg.getD i 0 : Int)| := by
  induction avg using diffSum.induct with
  | case1 => simp [diffSum]
  | case2 x => simp [diffSum]
  | case3 x y rest ih =>
    have pairs : (x :: y :: rest).length - 1 = ((y :: rest).length - 1) + 1 := by simp
    rw [pairs, Finset.sum_range_succ', diffSum, Nat.cast_add, ih, Int.natCast_natAbs, add_comm]
    simp

/-- Settles O35: the comparison of natural numbers is the one of their images in the integers. -/
theorem gapdetThresholdsDifferences : Obligations.GapdetThresholdsDifferences := by
  intro s
  simp only [← diffSum_eq_sum, Nat.cast_lt]
  rfl

/-! ## One debounce step (R97)

A register of n + 2 slots; slot n is the one that becomes the oldest. -/

section
variable {db : List Bool} {n : Nat} (slots : db.length = n + 2)
include slots

theorem shiftIn_slots (x : Bool) : (shiftIn db x).length = n + 2 :=
  (shiftIn_length db x (List.ne_nil_of_length_eq_add_one slots)).trans slots

theorem debounced_slots (x : Bool) : (debounced db x).length = n + 2 :=
  (debounced_length (List.ne_nil_of_length_eq_add_one slots) x).trans slots

theorem shiftIn_getD_succ (x : Bool) {k : Nat} (h : k ≤ n) : (shiftIn db x).getD (k + 1) false = db.getD k false := by
  have inBoth : k < db.length - 1 ∧ k < db.length := by omega
  simp [shiftIn, inBoth]

theorem oldest_shiftIn (x : Bool) : oldest (shiftIn db x) = db.getD n false := by
  rw [← shiftIn_getD_succ slots x le_rfl, oldest, List.getLastD_eq_getLast?, List.getLast?_eq_getElem?,
    shiftIn_slots slots, List.getD_eq_getElem?_getD]
  rfl

/-- Where the entering sub-bit disagrees with the slot that becomes the oldest, DEBOUNCE only shifts. -/
theorem debounced_of_ne {x : Bool} (h : x ≠ db.getD n false) : debounced db x = shiftIn db x := by
  simp only [debounced, oldest_shiftIn slots, h, false_and, if_false]

/-- Where it agrees, every slot takes it: by the correction, or because no slot differs. -/
theorem debounced_of_eq {x : Bool} (h : x = db.getD n false) : debounced db x = List.replicate (n + 2) x := by
  have length := shiftIn_slots slots x
  have last : oldest (shiftIn db x) = x := (oldest_shiftIn slots x).trans h.symm
  simp only [debounced, last, true_and, length]
  split
  · rfl
  next noBounce =>
    obtain empty | ⟨interior, y, kept⟩ := db.dropLast.eq_nil_or_concat
    · simp [shiftIn, empty] at length
    · have y_eq : y = x := by simpa [oldest, shiftIn, kept, List.getLast?_cons] using last
      have interior_eq : ∀ b ∈ interior, b = x := by simpa [bounceCount, shiftIn, kept] using noBounce
      refine List.eq_replicate_iff.mpr ⟨length, fun b mem => ?_⟩
      have place : b = x ∨ b ∈ interior := by
        simp only [shiftIn, kept, y_eq, List.concat_eq_append, List.mem_cons, List.mem_append, List.not_mem_nil] at mem
        tauto
      exact place.elim id (interior_eq b)

theorem oldest_debounced (x : Bool) : oldest (debounced db x) = db.getD n false := by
  by_cases h : x = db.getD n false
  · rw [debounced_of_eq slots h, ← h]
    simp [oldest, List.getLast?_replicate]
  · rw [debounced_of_ne slots h, oldest_shiftIn slots]

theorem delivered_cons (x : Bool) (xs : List Bool) :
    delivered db (x :: xs) = db.getD n false :: delivered (debounced db x) xs := by
  rw [delivered, oldest_debounced slots]

end

/-- Settles O36: the two cases of a debounce step. -/
theorem debounceShiftsAndCorrects : Obligations.DebounceShiftsAndCorrects := by
  intro s atLeast
  obtain ⟨n, slots⟩ := Nat.exists_eq_add_of_le' atLeast
  rw [slots, Nat.add_sub_cancel]
  refine ⟨debounced s.db s.work.sub, oldest (debounced s.db s.work.sub), rfl,
    debounced_slots slots _, oldest_debounced slots _, fun agree k inRegister => ?_, fun disagree => ?_⟩
  · rw [debounced_of_eq slots agree, List.getD_replicate _ inRegister]
  · rw [debounced_of_ne slots disagree]
    exact ⟨rfl, fun k inRegister => shiftIn_getD_succ slots _ (by omega)⟩

/-! ## Runs (R99 to R101, R158) -/

/-- A register of all `c` stays so and delivers `c` while `c` enters. -/
theorem delivered_replicate_append (n q : Nat) (c : Bool) (xs : List Bool) :
    delivered (List.replicate (n + 2) c) (List.replicate q c ++ xs) =
      List.replicate q c ++ delivered (List.replicate (n + 2) c) xs := by
  have slots : (List.replicate (n + 2) c).length = n + 2 := List.length_replicate
  have oldestIs : (List.replicate (n + 2) c).getD n false = c := List.getD_replicate _ (by omega)
  induction q with
  | zero => rfl
  | succ q ih =>
    rw [List.replicate_succ (n := q), List.cons_append, delivered_cons slots, debounced_of_eq slots oldestIs.symm, ih,
      oldestIs, List.cons_append]

/-- The spike itself is not delivered, and the next `c` agrees with the slot that becomes the oldest, so it overwrites
the spike (R99). -/
theorem delivered_spike {n : Nat} (deep : 1 ≤ n) (q : Nat) (c : Bool) :
    delivered (List.replicate (n + 2) c) ((!c) :: List.replicate q c) = List.replicate (q + 1) c := by
  have slots : (List.replicate (n + 2) c).length = n + 2 := List.length_replicate
  have oldestIs : (List.replicate (n + 2) c).getD n false = c := List.getD_replicate _ (by omega)
  have spiked : debounced (List.replicate (n + 2) c) (!c) = (!c) :: List.replicate (n + 1) c := by
    rw [debounced_of_ne slots (by rw [oldestIs]; exact Bool.not_ne_self c)]
    simp [shiftIn]
  have slots' : ((!c) :: List.replicate (n + 1) c).length = n + 2 := by simp
  have oldestIs' : ((!c) :: List.replicate (n + 1) c).getD n false = c := by
    obtain ⟨e, rfl⟩ := Nat.exists_eq_add_of_le' deep
    exact List.getD_replicate _ (by omega)
  rw [delivered_cons slots, oldestIs, spiked]
  cases q with
  | zero => rfl
  | succ q =>
    have rest := delivered_replicate_append n q c []
    rw [List.append_nil] at rest
    rw [List.replicate_succ (n := q), delivered_cons slots', oldestIs', debounced_of_eq slots' oldestIs'.symm, rest]
    simp [delivered, List.replicate_succ]

/-- Settles O37: before, at and after the spike `c` is delivered. -/
theorem spikeNeverDelivered : Obligations.SpikeNeverDelivered := by
  intro depth p q c deep d mem
  rw [delivered_replicate_append, delivered_spike deep, ← List.replicate_add] at mem
  exact List.eq_of_mem_replicate mem

/-- Where the slots from `t` up to the next to deliver hold 0, the next n + 1 - t steps deliver 0, whatever enters. -/
theorem delivered_take_zero {n t : Nat} {db : List Bool} (xs : List Bool) (slots : db.length = n + 2)
    (zero : ∀ k, t ≤ k → k ≤ n → db.getD k false = false) : ∀ d ∈ (delivered db xs).take (n + 1 - t), d = false := by
  induction xs generalizing db t with
  | nil => simp [delivered]
  | cons x xs ih =>
    rcases Nat.lt_or_ge n t with past | le
    · simp [Nat.sub_eq_zero_of_le past]
    have oldestZero : db.getD n false = false := zero n le le_rfl
    have zero' : ∀ k, t + 1 ≤ k → k ≤ n → (debounced db x).getD k false = false := by
      intro k above inRegister
      by_cases agree : x = db.getD n false
      · rw [debounced_of_eq slots agree, agree, oldestZero, List.getD_replicate _ (by omega)]
      · obtain ⟨k, rfl⟩ := Nat.exists_eq_add_of_le' (Nat.le_of_add_left_le above)
        rw [debounced_of_ne slots agree, shiftIn_getD_succ slots x (by omega)]
        exact zero k (by omega) (by omega)
    rw [delivered_cons slots, oldestZero, show n + 1 - t = n + 1 - (t + 1) + 1 by omega, List.take_succ_cons]
    exact List.forall_mem_cons.mpr ⟨rfl, ih (debounced_slots slots x) zero'⟩

/-- Settles O39: at RESET every slot holds 0. -/
theorem warmupDeliversZero : Obligations.WarmupDeliversZero := fun _ xs =>
  delivered_take_zero (t := 0) xs List.length_replicate fun _ _ inRegister => List.getD_replicate _ (by omega)

/-! ## Sustained levels (R101) -/

/-- The sub-bit that entered `k + 1` steps before step `t`; before the first step it is the reset content 0 (R32, R100). -/
def entered (x : Nat → Bool) (t k : Nat) : Bool := if k < t then x (t - (k + 1)) else false

@[simp] theorem entered_succ_zero (x : Nat → Bool) (t : Nat) : entered x (t + 1) 0 = x t := rfl

@[simp] theorem entered_succ_succ (x : Nat → Bool) (t k : Nat) : entered x (t + 1) (k + 1) = entered x t k := by
  simp [entered]

/-- The register of n + 2 slots before step `t`, where no correction has happened. -/
def uncorrected (x : Nat → Bool) (t n : Nat) : List Bool := (List.range (n + 2)).map (entered x t)

theorem uncorrected_length (x : Nat → Bool) (t n : Nat) : (uncorrected x t n).length = n + 2 := by
  simp [uncorrected]

theorem uncorrected_getD (x : Nat → Bool) (t n : Nat) : (uncorrected x t n).getD n false = entered x t n := by
  simp [uncorrected]

theorem uncorrected_zero (x : Nat → Bool) (n : Nat) : uncorrected x 0 n = List.replicate (n + 2) false :=
  List.eq_replicate_iff.mpr ⟨uncorrected_length x 0 n, by simp [uncorrected, entered]⟩

theorem shiftIn_uncorrected (x : Nat → Bool) (t n : Nat) :
    shiftIn (uncorrected x t n) (x t) = uncorrected x (t + 1) n := by
  have kept : (uncorrected x t n).dropLast = (List.range (n + 1)).map (entered x t) := by
    simp [uncorrected, List.range_succ (n := n + 1)]
  rw [shiftIn, kept, uncorrected, List.range_succ_eq_map (n := n + 1), List.map_cons, List.map_map, entered_succ_zero]
  exact congrArg _ (List.map_congr_left fun k _ => (entered_succ_succ x t k).symm)

/-- Any two changes of the sub-bits, the first one against the reset content 0, are at least n + 1 apart (R101). -/
def ChangesApart (x : Nat → Bool) (n : Nat) : Prop :=
  ∀ i j, i < j → (x i ≠ if i = 0 then false else x (i - 1)) → x j ≠ x (j - 1) → i + n + 1 ≤ j

/-- Between two places with different values there is a change. -/
theorem exists_change {w : Nat → Bool} {a b : Nat} (le : a ≤ b) (ne : w a ≠ w b) :
    ∃ j, a ≤ j ∧ j < b ∧ w j ≠ w (j + 1) := by
  induction b, le using Nat.le_induction with
  | base => exact absurd rfl ne
  | succ b le ih =>
    by_cases same : w a = w b
    · exact ⟨b, le, Nat.lt_succ_self b, same ▸ ne⟩
    · obtain ⟨j, above, below, change⟩ := ih same
      exact ⟨j, above, by omega, change⟩

/-- A change in the register is one of the sub-bits. -/
theorem change_of_entered {x : Nat → Bool} {t k : Nat} (h : entered x (t + 1) k ≠ entered x (t + 1) (k + 1)) :
    k ≤ t ∧ x (t - k) ≠ if t - k = 0 then false else x (t - k - 1) := by
  rcases Nat.lt_or_ge t k with before | le
  · simp [entered, show ¬k < t + 1 by omega, show ¬k < t by omega] at h
  · refine ⟨le, ?_⟩
    have newer : entered x (t + 1) k = x (t - k) := by simp [entered, Nat.lt_succ_of_le le]
    have older : entered x (t + 1) (k + 1) = if t - k = 0 then false else x (t - k - 1) := by
      rw [entered_succ_succ, entered, Nat.sub_sub]
      simp only [Nat.sub_eq_zero_iff_le, ← Nat.not_le, ite_not]
    rwa [newer, older] at h

/-- Where the newest and the oldest slot agree, so do all between: two changes would be too close. -/
theorem ChangesApart.entered_eq {x : Nat → Bool} {t n k : Nat} (apart : ChangesApart x n) (h : x t = entered x t n)
    (inRegister : k ≤ n + 1) : entered x (t + 1) k = x t := by
  by_contra ne
  have newer : entered x (t + 1) 0 ≠ entered x (t + 1) k := Ne.symm ne
  have older : entered x (t + 1) k ≠ entered x (t + 1) (n + 1) := by rwa [entered_succ_succ, ← h]
  obtain ⟨j, -, newerBelow, newerChange⟩ := exists_change (Nat.zero_le k) newer
  obtain ⟨i, olderAbove, olderBelow, olderChange⟩ := exists_change inRegister older
  obtain ⟨jle, jChange⟩ := change_of_entered newerChange
  obtain ⟨ile, iChange⟩ := change_of_entered olderChange
  rw [if_neg (by omega)] at jChange
  have := apart (t - i) (t - j) (by omega) iChange jChange
  omega

/-- No correction happens: the one that the agreement could call for changes no slot. -/
theorem ChangesApart.debounced_uncorrected {x : Nat → Bool} {n : Nat} (apart : ChangesApart x n) (t : Nat) :
    debounced (uncorrected x t n) (x t) = uncorrected x (t + 1) n := by
  have slots := uncorrected_length x t n
  by_cases agree : x t = entered x t n
  · rw [debounced_of_eq slots (agree.trans (uncorrected_getD x t n).symm)]
    refine (List.eq_replicate_iff.mpr ⟨uncorrected_length x _ n, fun b mem => ?_⟩).symm
    obtain ⟨k, inRange, rfl⟩ := List.mem_map.mp mem
    exact apart.entered_eq agree (Nat.le_of_lt_succ (List.mem_range.mp inRange))
  · rw [debounced_of_ne slots (uncorrected_getD x t n ▸ agree), shiftIn_uncorrected]

theorem ChangesApart.delivered_uncorrected {x : Nat → Bool} {n : Nat} (apart : ChangesApart x n) (t m : Nat) :
    delivered (uncorrected x t n) ((List.range' t m).map x) = (List.range' t m).map fun t => entered x t n := by
  induction m generalizing t with
  | zero => rfl
  | succ m ih =>
    rw [List.range'_succ, List.map_cons, List.map_cons, delivered_cons (uncorrected_length x t n), uncorrected_getD,
      apart.debounced_uncorrected, ih]

/-- Settles O38: no correction happens, so the oldest slot is the sub-bit that entered D+1 steps before. -/
theorem sustainedLevelsPass : Obligations.SustainedLevelsPass := by
  intro depth x n apart
  have all := ChangesApart.delivered_uncorrected (n := depth) apart 0 n
  rw [uncorrected_zero, ← List.range_eq_range'] at all
  rw [all]
  refine List.map_congr_left fun t _ => ?_
  simp only [entered, ← Nat.not_le, ite_not]

end Sys2Proof.Machine

/-!
SUPPORT. The bitrate estimator (42_bitrate.md): the tolerance and the rounded mean as register contents (R106, R108), what
BRFIX and BRAUTO answer (R105, R107), a gap step of stalled detection (R109), and what a settled bitrate outlives (R110).
-/

namespace Sys2Proof.Machine

/-! ## The settled values as register contents (R106, R108) -/

theorem tol_eq {c : ConfigRegs} (legal : configLegal c = true) (b : Nat) :
    tol c b = (2 * (b * c.num .tolNum) + c.num .tolDen) / (2 * c.num .tolDen) := by
  obtain ⟨-, positive, -, -⟩ := configLegal_ratio legal
  exact roundHalfUp_of_pos positive

/-- The tolerance is at most its bitrate, so it fits a register where the bitrate does (R106). -/
theorem tol_toNat {c : ConfigRegs} (legal : configLegal c = true) {b : Nat} (fits : b < 4294967296) :
    (toWord (tol c b)).toNat = tol c b :=
  toWord_toNat ((tol_le legal b).trans_lt fits)

/-- The recorded intervals of the window, summed (R108). -/
def windowTotal (c : ConfigRegs) (est : List Word) : Nat :=
  ∑ i ∈ Finset.Ico (c.num .detLo) (c.num .detHi), (est.getD i 0).toNat

theorem windowMean_eq (c : ConfigRegs) (est : List Word) :
    windowMean c est = roundHalfUp (windowTotal c est) (c.num .detHi - c.num .detLo) := by
  rw [windowTotal, Finset.sum_Ico_eq_sum_range]
  rfl

theorem windowTotal_le (c : ConfigRegs) (est : List Word) :
    windowTotal c est ≤ 4294967295 * (c.num .detHi - c.num .detLo) := by
  have fits : ∀ i ∈ Finset.Ico (c.num .detLo) (c.num .detHi), (est.getD i 0).toNat ≤ 4294967295 :=
    fun i _ => Nat.le_of_lt_succ (est.getD i 0).isLt
  have bound := Finset.sum_le_card_nsmul _ _ _ fits
  rwa [Nat.card_Ico, smul_eq_mul, mul_comm] at bound

/-- A mean of register contents fits a register (R108). -/
theorem windowMean_lt {c : ConfigRegs} (window : c.num .detLo < c.num .detHi) (est : List Word) :
    windowMean c est < 4294967296 := by
  rw [windowMean_eq]
  exact Nat.lt_succ_of_le (roundHalfUp_le (Nat.sub_pos_of_lt window) (windowTotal_le c est))

theorem windowTotal_of_equal {c : ConfigRegs} {est : List Word} {V : Word}
    (equal : ∀ i, c.num .detLo ≤ i → i < c.num .detHi → est.getD i 0 = V) :
    windowTotal c est = (c.num .detHi - c.num .detLo) * V.toNat := by
  have constant : ∀ i ∈ Finset.Ico (c.num .detLo) (c.num .detHi), (est.getD i 0).toNat = V.toNat := by
    intro i inWindow
    obtain ⟨above, below⟩ := Finset.mem_Ico.mp inWindow
    rw [equal i above below]
  rw [windowTotal, Finset.sum_congr rfl constant, Finset.sum_const, Nat.card_Ico, smul_eq_mul]

/-- A multiple of the divisor is divided exactly, whatever the rounding (R14). -/
theorem rounded_multiple {n : Nat} (positive : 0 < n) (v : Nat) : (2 * (n * v) + n) / (2 * n) = v := by
  rw [← Nat.mul_assoc, Nat.mul_add_div (by omega), Nat.div_eq_of_lt (by omega), Nat.add_zero]

/-! ## BRAUTO (R107) -/

theorem edge_eq_false {s : State} : edge s = false ↔ s.work.d = s.prevD := by
  simp [edge]

theorem execBrauto_of_same {s : State} (same : s.work.d = s.prevD) : execBrauto s = .next s := by
  simp only [execBrauto, edge_eq_false.mpr same, Bool.false_eq_true, if_false]

/-- At a change of d that leaves room in the array the interval is recorded, and nothing is settled. -/
theorem execBrauto_of_room {s : State} (change : s.work.d ≠ s.prevD) (room : s.estCnt + 1 < s.cfg.num .stopCount) :
    execBrauto s = .next (recordInterval s) := by
  rcases execBrauto_cases s with ⟨same, -⟩ | ⟨-, -, recorded⟩ | ⟨-, full, -⟩
  · exact absurd (edge_eq_false.mp same) change
  · exact recorded
  · exact absurd full room.ne

/-- At the change of d that fills the array the bitrate is settled. -/
theorem execBrauto_of_full {s : State} (change : s.work.d ≠ s.prevD) (full : s.estCnt + 1 = s.cfg.num .stopCount) :
    execBrauto s = .next (adoptBitrate (windowMean s.cfg (recordInterval s).est) (recordInterval s)) := by
  rcases execBrauto_cases s with ⟨same, -⟩ | ⟨-, room, -⟩ | ⟨-, -, settled⟩
  · exact absurd (edge_eq_false.mp same) change
  · exact absurd full room
  · exact settled

theorem decodeStageOfGap_of_auto {s : State} (detecting : s.decoderState = .bitrateDetect)
    (auto : s.cfg.num .autoEn ≠ 0) : decodeStageOfGap s = execBrauto s := by
  rw [decodeStageOfGap_eq, if_pos detecting, if_neg auto]
  rfl

/-! ## What a settled bitrate outlives (R110) -/

theorem DecoderStep.keeps_rates_of_detecting {s t : State} (step : DecoderStep s t)
    (detecting : t.decoderState = .bitrateDetect) : t.bitrate = s.bitrate ∧ t.tolerance = s.tolerance := by
  cases step with
  | unchanged | recorded | noBit | stored | skipped => exact ⟨rfl, rfl⟩
  | fixed | estimated | resumed => cases detecting
  | decoded frame _ _ _ byte => exact absurd detecting (byte.decoderState_ne_bitrateDetect frame)

/-- A gap step after which detection still runs has written neither rate. -/
theorem gapStep_keeps_rates_of_detecting {g : Nat} {s t : State} (done : gapStep g s = .next t)
    (detecting : t.decoderState = .bitrateDetect) : t.bitrate = s.bitrate ∧ t.tolerance = s.tolerance := by
  obtain ⟨u, stage, rfl⟩ := gapStep_eq_next.mp done
  exact (decodeStageOfGap_cases stage).keeps_rates_of_detecting detecting

section
variable {b tl : Word} {s t : State} (h : Settled b tl s)
include h

theorem illegalTransaction_keeps_settled : Settled b tl (illegalTransaction s) := by
  by_cases faulted : s.runState = .faulted
  · rwa [illegalTransaction_faulted faulted]
  · rw [illegalTransaction_raises faulted]
    exact { h with }

theorem execCfgw_keeps_settled {idx : BitVec 8} {value : Word} (done : execCfgw idx value s = .next t) :
    Settled b tl t := by
  unfold execCfgw at done
  split at done
  · cases done
    exact illegalTransaction_keeps_settled h
  · split at done <;> cases done <;> exact { h with }

theorem processBlock_keeps_settled {xs : List Byte} (done : processBlock xs s = .next t) : Settled b tl t := by
  obtain ⟨u, gaps, rfl⟩ := processBlock_eq_next.mp done
  have started : Settled b tl (blockStarted xs s) := { h with }
  exact { runGaps_keeps_settled started gaps with }

theorem execBlock_keeps_settled {xs : List Byte} (done : execBlock xs s = .next t) : Settled b tl t := by
  cases run : s.runState with
  | faulted => cases (execBlock_of_faulted run xs).symm.trans done; exact h
  | halted => cases (execBlock_of_halted run xs).symm.trans done; exact { h with }
  | running =>
    rw [execBlock_of_running run] at done
    split at done
    · cases done
      exact { h with }
    · split at done
      · cases done
        exact { h with }
      · exact processBlock_keeps_settled h done

theorem execEnd_keeps_settled {reason : Bool} (done : execEnd reason s = .next t) : Settled b tl t := by
  unfold execEnd at done
  split at done <;> cases done <;> exact { h with }

theorem execCancel_keeps_settled (done : execCancel s = .next t) : Settled b tl t := by
  unfold execCancel at done
  split at done <;> cases done <;> exact { h with }

/-- RESET is the only transaction that unsettles the bitrate. -/
theorem exec_keeps_settled {i : Instr} (transaction : i.isTransaction = true) (notReset : i ≠ .reset)
    (done : exec i s = .next t) : Settled b tl t := by
  cases i with
  | reset => exact absurd rfl notReset
  | cfgw => exact execCfgw_keeps_settled h done
  | block => exact execBlock_keeps_settled h done
  | endSession => exact execEnd_keeps_settled h done
  | cancel => exact execCancel_keeps_settled h done
  | _ => cases transaction

theorem runTransaction_keeps_settled (notReset : ∀ rest, decode s.rx ≠ .ok .reset rest)
    (done : runTransaction s = .next t) : Settled b tl t := by
  unfold runTransaction at done
  split at done
  next i rest read =>
    have named : i ≠ .reset := fun isReset => notReset rest (isReset ▸ read)
    exact exec_keeps_settled (s := { s with rx := rest }) { h with } (decode_isTransaction read) named done
  · cases done
    exact illegalTransaction_keeps_settled { h with }
  · cases done
    exact h

end

/-! ## The obligations -/

/-- Settles O22: a gap step keeps a settled bitrate, and one after which detection still runs writes neither rate. -/
theorem gapStepSettlesBitrateOnce : Obligations.GapStepSettlesBitrateOnce := by
  intro g s t done
  have settled (outside : s.decoderState ≠ .bitrateDetect) : Settled s.bitrate s.tolerance t :=
    gapStep_keeps_settled ⟨outside, rfl, rfl⟩ done
  refine ⟨fun outside => (settled outside).decoderState, ?_⟩
  rintro (outside | detecting)
  · exact ⟨(settled outside).bitrate, (settled outside).tolerance⟩
  · exact gapStep_keeps_rates_of_detecting done detecting

/-- Settles O23: a step that runs the host's words keeps a settled bitrate, unless they are a RESET. -/
theorem detectionRerunsOnlyAfterReset : Obligations.DetectionRerunsOnlyAfterReset := by
  intro s t port outside notReset done
  rw [step_eq_runTransaction port] at done
  obtain ⟨decoderState, bitrate, tolerance⟩ := runTransaction_keeps_settled ⟨outside, rfl, rfl⟩ notReset done
  exact ⟨decoderState, bitrate, tolerance⟩

/-- Settles O40: the configured bitrate is a register content, and its tolerance is at most it. -/
theorem brfixAdoptsConfigured : Obligations.BrfixAdoptsConfigured := by
  intro s legal _
  have bitrate : toWord (s.cfg.num .fixedBitrate) = s.cfg.value .fixedBitrate := toWord_num _
  have tolerance := tol_toNat legal (s.cfg.value .fixedBitrate).isLt
  refine ⟨toWord (tol s.cfg (s.cfg.num .fixedBitrate)), ?_, tolerance.trans (tol_eq legal _), ?_⟩
  · rw [← bitrate]
    rfl
  · exact tolerance.trans_le (tol_le legal _)

/-- Settles O41: BRAUTO's three ways, and the settled values as register contents. -/
theorem brautoRecordsIntervals : Obligations.BrautoRecordsIntervals := by
  intro s legal auto _
  refine ⟨execBrauto_of_same, execBrauto_of_room, fun change full => ?_⟩
  obtain ⟨-, -, window, -⟩ := configLegal_window legal auto
  have fits := windowMean_lt window (s.est ++ [s.nSame])
  refine ⟨_, _, execBrauto_of_full change full, ?_, ?_⟩
  · rw [recordInterval_est, toWord_toNat fits, windowMean_eq, roundHalfUp_of_pos (Nat.sub_pos_of_lt window)]
    rfl
  · rw [recordInterval_est, recordInterval_cfg, tol_toNat legal fits, toWord_toNat fits, tol_eq legal]

/-- Settles O42: the sum over the window is a multiple of its length, so the mean is exact. -/
theorem equalIntervalsGiveBitrate : Obligations.EqualIntervalsGiveBitrate := by
  intro s V legal auto change full equal
  obtain ⟨-, -, window, -⟩ := configLegal_window legal auto
  obtain ⟨-, -, settles⟩ := brautoRecordsIntervals s legal auto (by omega)
  obtain ⟨b, tl, settled, mean, tolerance⟩ := settles change full
  have bitrate : b = V := by
    refine BitVec.eq_of_toNat_eq (mean.trans ?_)
    rw [← windowTotal, windowTotal_of_equal equal, rounded_multiple (Nat.sub_pos_of_lt window)]
  subst bitrate
  refine ⟨_, settled, rfl, rfl, tolerance, fun num den => ?_⟩
  rw [tolerance, num, den]
  omega

/-- Settles O43: BRAUTO sees no change in the slot that DEBOUNCE delivers, and GAPEND writes back the `prev_d` it finds. -/
theorem stalledDetectionOnlyCounts : Obligations.StalledDetectionOnlyCounts := by
  intro g s detecting auto atLeast same
  obtain ⟨n, slots⟩ := Nat.exists_eq_add_of_le' atLeast
  rw [slots, Nat.add_sub_cancel] at same
  have delivered : (afterSignalPath g s).work.d = s.prevD := (oldest_debounced slots _).trans same
  have on : s.cfg.num .autoEn ≠ 0 := auto.trans_ne one_ne_zero
  have stage : decodeStageOfGap (afterSignalPath g s) = .next (afterSignalPath g s) :=
    (decodeStageOfGap_of_auto (s := afterSignalPath g s) detecting on).trans (execBrauto_of_same delivered)
  have stalled : gapStep g s = .next (afterGapend (afterSignalPath g s)) := gapStep_eq_next.mpr ⟨_, stage, rfl⟩
  refine ⟨(afterSignalPath g s).db, (afterGapend (afterSignalPath g s)).nSame, (afterSignalPath g s).work, ?_,
    (debounced_slots slots _).trans slots.symm, afterGapend_nSame _⟩
  rw [stalled, afterGapend, delivered]
  rfl

end Sys2Proof.Machine

/-!
SUPPORT. The bit path (43_bit_byte.md): the byte and the parity of the bit buffer as arithmetic (R120), what MSGEMIT, PAYLOAD
and BITDET answer in each case (R114, R124, R128), the held steps of an idle line (R131), and which operations emit or are
refused (R128, I27).
-/

namespace Sys2Proof.Machine

/-! ## The byte and its parity (R120) -/

theorem byteOf_toNat (bb : List Bool) :
    (byteOf bb).toNat = ∑ i ∈ Finset.range 8, (bb.getD i false).toNat * 2 ^ i := by
  have fits : ∑ i ∈ Finset.range 8, (bb.getD i false).toNat * 2 ^ i ≤ ∑ i ∈ Finset.range 8, 1 * 2 ^ i :=
    Finset.sum_le_sum fun i _ => Nat.mul_le_mul_right _ (Bool.toNat_le _)
  exact Nat.mod_eq_of_lt (fits.trans_lt (by decide))

/-- A fold of exclusive or counts the ones modulo 2. -/
theorem foldl_xor_eq_true {xs : List Bool} {b : Bool} :
    xs.foldl xor b = true ↔ (b.toNat + xs.count true) % 2 = 1 := by
  induction xs generalizing b with
  | nil => cases b <;> decide
  | cons x xs ih =>
    rw [List.foldl_cons, ih, List.count_cons]
    cases b <;> cases x <;> simp <;> omega

/-- Slots not filled since the last clear hold no one. -/
theorem count_true_slots (bb : List Bool) (n : Nat) :
    ((List.range n).map (slot bb)).count true = (bb.take n).count true := by
  induction n with
  | zero => rfl
  | succ n ih =>
    have last : [slot bb n].count true = (bb[n]?.toList).count true := by
      rw [slot, List.getD_eq_getElem?_getD]
      cases bb[n]? <;> rfl
    rw [List.range_succ, List.map_append, List.count_append, ih, List.take_add_one, List.count_append, ← last]
    rfl

theorem parityOf_eq_true {bb : List Bool} : parityOf bb = true ↔ (bb.take 8).count true % 2 = 1 := by
  rw [parityOf, foldl_xor_eq_true, count_true_slots, Bool.toNat_false, Nat.zero_add]

theorem execBytedone_eq (s : State) :
    execBytedone s = exec
      (if byteOf s.bb = 255 then (if s.streamOpened = true then .delimClose else .delimOpen)
       else if s.streamOpened = true then .payload else .discard) (decodeByte s) := by
  simp only [apply_ite (exec · (decodeByte s))]
  rfl

/-! ## The character of a payload byte (R124 to R126) -/

theorem printable_eq_false {b : Byte} : printable b = false ↔ b.toNat < 32 ∨ 126 < b.toNat := by
  rw [printable, decide_eq_false_iff_not, Config.printableLo, Config.printableHi]
  omega

theorem parityBad_eq_true {c : ConfigRegs} {par rxp : Bool} :
    parityBad c par rxp = true ↔ c.num .parityEn = 1 ∧ rxp ≠ if c.num .parityOdd = 0 then par else !par := by
  simp [parityBad, expectedParity]

/-- A byte is replaced by the sentinel where it fails the printable test or the parity test. -/
theorem payload_fails_iff {c : ConfigRegs} {b : Byte} {par rxp : Bool} :
    (parityBad c par rxp || !printable b) = true ↔
      b.toNat < 32 ∨ 126 < b.toNat ∨
        (c.num .parityEn = 1 ∧ rxp ≠ if c.num .parityOdd = 0 then par else !par) := by
  rw [Bool.or_eq_true, parityBad_eq_true, Bool.not_eq_true', printable_eq_false, or_comm, or_assoc]

/-! ## MSGEMIT (R128) -/

/-- Below the last number MSGEMIT takes the next one. -/
theorem emitMsg_of_lt {s : State} (unspent : s.seqSpent = false) (below : s.seq.toNat < 2 ^ 32 - 1) :
    ∃ n : Word, n.toNat = s.seq.toNat + 1 ∧
      emitMsg s = { s with out := s.out ++ [⟨s.seq, s.msgBuf⟩], seq := n, msgBuf := [] } := by
  have left : (emitMsg s).seqSpent = s.seqSpent := (decide_eq_false below.ne).trans unspent.symm
  refine ⟨(emitMsg s).seq, emitMsg_seq_toNat (left.trans unspent), ?_⟩
  rw [← left]
  rfl

theorem emitMsg_of_last {s : State} (last : s.seq.toNat = 2 ^ 32 - 1) :
    emitMsg s = { s with
      out := s.out ++ [⟨s.seq, s.msgBuf⟩], seq := (emitMsg s).seq, seqSpent := true, msgBuf := [] } := by
  have spent : (emitMsg s).seqSpent = true := decide_eq_true last
  rw [← spent]
  rfl

/-! ## BITDET (R114 to R116) -/

theorem edge_eq_true {s : State} : edge s = true ↔ s.work.d ≠ s.prevD := by
  simp [edge]

theorem timeout_eq_true {s : State} : timeout s = true ↔ s.bitrate.toNat + s.tolerance.toNat < s.nSame.toNat :=
  decide_eq_true_iff

theorem routeBit_eq (s : State) : routeBit s = exec (if s.decoderState = .frame then .bitappend else .ifbit) s := by
  unfold routeBit
  split <;> simp only [*, reduceCtorEq, if_true, if_false] <;> rfl

theorem execBitdet_of_quiet {s : State} (same : s.work.d = s.prevD)
    (within : s.nSame.toNat ≤ s.bitrate.toNat + s.tolerance.toNat) : execBitdet s = .next s := by
  have quiet : ¬timeout s = true := mt timeout_eq_true.mp within.not_gt
  rw [execBitdet, edge_eq_false.mpr same, if_neg Bool.false_ne_true, if_neg quiet]

theorem execBitdet_of_edge {s : State} (change : s.work.d ≠ s.prevD) :
    execBitdet s = routeBit (withDetectedBit 0 s) :=
  if_pos (edge_eq_true.mpr change)

theorem execBitdet_of_timeout {s : State} (same : s.work.d = s.prevD)
    (past : s.bitrate.toNat + s.tolerance.toNat < s.nSame.toNat) :
    execBitdet s = routeBit (withDetectedBit s.tolerance s) := by
  rw [execBitdet, edge_eq_false.mpr same, if_neg Bool.false_ne_true, if_pos (timeout_eq_true.mpr past)]
  rfl

theorem execIfbit_of_one {s : State} (one : s.work.bit = true) : execIfbit s = .next s :=
  if_pos one

theorem execIfbit_of_zero {s : State} (zero : s.work.bit = false) :
    execIfbit s = .next { s with decoderState := .frame } :=
  if_neg (Bool.eq_false_iff.mp zero)

/-! ## The frame of the bit path -/

/-- What a state within the bit path's frame is, written as an update of the state before. -/
theorem BitFrame.eq_update {s t : State} (h : BitFrame s t) :
    t = { s with
      nSame := t.nSame, decoderState := t.decoderState, streamOpened := t.streamOpened, bb := t.bb,
      msgBuf := t.msgBuf, seq := t.seq, seqSpent := t.seqSpent, out := t.out, work := t.work } := by
  rw [← h.runState, ← h.faultCode, ← h.termReason, ← h.prevD, ← h.bitrate, ← h.tolerance, ← h.cfg, ← h.db, ← h.est,
    ← h.runStart, ← h.faults, ← h.rx, ← h.stagePort]

theorem execDelimClose_bitFrame {s t : State} (h : execDelimClose s = .next t) :
    BitFrame s t ∧ t.nSame = s.nSame ∧ t.bb = s.bb := by
  obtain ⟨-, rfl⟩ := execDelimClose_eq_next.mp h
  exact ⟨⟨rfl, rfl, rfl, rfl, rfl, rfl, rfl, rfl, rfl, rfl, rfl, rfl, rfl, rfl, rfl, .inr rfl⟩, rfl, rfl⟩

/-! ## An idle line (R131) -/

/-- In Interframe the line is held at 1, and `left` held steps go by before the counter is past bitrate and tolerance. -/
structure IdleLine (b tl : Word) (left : Nat) (s : State) : Prop where
  interframe : s.decoderState = .interframe
  held : s.work.d = true
  same : s.prevD = true
  bitrate : s.bitrate = b
  tolerance : s.tolerance = tl
  counter : s.nSame.toNat + left = b.toNat + tl.toNat + 1
  fits : b.toNat + tl.toNat + 1 < 2 ^ 32

theorem heldSteps_succ (n : Nat) (s : State) :
    heldSteps (n + 1) s = andThen (execBitdet s) fun t => heldSteps n (afterGapend t) := rfl

/-- The step after `k` ends a period exactly when the first period is over by `k` and whole periods have passed since. -/
theorem endsPeriod_iff (b k : Nat) : b ≤ k ∧ (k - b) % (b + 1) = 0 ↔ (k + 1) % (b + 1) = 0 := by
  obtain before | after := lt_or_ge k b
  · rw [Nat.mod_eq_of_lt (show k + 1 < b + 1 by omega)]
    omega
  · rw [show k + 1 = k - b + (b + 1) by omega, Nat.add_mod_right, and_iff_right after]

section

variable {b tl : Word} {left : Nat} {s : State}

theorem IdleLine.timeout_iff (h : IdleLine b tl left s) : timeout s = true ↔ left = 0 := by
  have := h.counter
  rw [timeout_eq_true, h.bitrate, h.tolerance]
  omega

/-- GAPEND counts one step of the idle line; the counter is too small to saturate. -/
theorem IdleLine.afterGapend (h : IdleLine b tl (left + 1) s) : IdleLine b tl left (afterGapend s) where
  interframe := h.interframe
  held := h.held
  same := h.held
  bitrate := h.bitrate
  tolerance := h.tolerance
  counter := by
    have := h.counter
    have := h.fits
    rw [afterGapend_nSame]
    omega
  fits := h.fits

theorem IdleLine.execBitdet_of_left (h : IdleLine b tl (left + 1) s) : execBitdet s = .next s := by
  have := h.counter
  refine execBitdet_of_quiet (h.held.trans h.same.symm) ?_
  rw [h.bitrate, h.tolerance]
  omega

/-- Past bitrate and tolerance a 1 is inferred, which Interframe skips, and the counter starts again at the tolerance. -/
theorem IdleLine.execBitdet_of_none_left (h : IdleLine b tl 0 s) :
    execBitdet s = .next (withDetectedBit tl s) := by
  have past : s.bitrate.toNat + s.tolerance.toNat < s.nSame.toNat := timeout_eq_true.mp (h.timeout_iff.mpr rfl)
  rw [execBitdet_of_timeout (h.held.trans h.same.symm) past, routeBit_eq, h.tolerance]
  have skipped : ¬(withDetectedBit tl s).decoderState = .frame := by simp [withDetectedBit, h.interframe]
  rw [if_neg skipped]
  exact execIfbit_of_one h.held

theorem IdleLine.withDetectedBit (h : IdleLine b tl left s) : IdleLine b tl (b.toNat + 1) (withDetectedBit tl s) :=
  { h with counter := Nat.add_left_comm .. }

/-- R131, by induction on the held steps: each leaves one fewer to go, and one that infers a bit leaves the bitrate's worth
of them. -/
theorem heldSteps_of_idleLine (h : IdleLine b tl left s) (k : Nat) :
    ∃ t, heldSteps k s = .next t ∧ t.decoderState = .interframe ∧ t.out = s.out ∧
      (timeout t = true ↔ left ≤ k ∧ (k - left) % (b.toNat + 1) = 0) := by
  induction k generalizing left s with
  | zero => exact ⟨s, rfl, h.interframe, rfl, by rw [h.timeout_iff]; simp⟩
  | succ k ih =>
    rw [heldSteps_succ]
    cases left with
    | succ left =>
      rw [h.execBitdet_of_left, andThen_next]
      obtain ⟨t, done, interframe, out, inferred⟩ := ih h.afterGapend
      exact ⟨t, done, interframe, out, by rw [inferred, Nat.add_sub_add_right, Nat.add_le_add_iff_right]⟩
    | zero =>
      rw [h.execBitdet_of_none_left, andThen_next]
      obtain ⟨t, done, interframe, out, inferred⟩ := ih h.withDetectedBit.afterGapend
      exact ⟨t, done, interframe, out, by rw [inferred, endsPeriod_iff]; simp⟩

end

/-! ## What emits, and what is refused (R128) -/

theorem CompletesUnless.eq_overflow {spent : Bool} {r : Refusal} (h : CompletesUnless spent (.refused r)) :
    r = .sequenceOverflow ∧ spent = true := by
  cases h with
  | overflow spent => exact ⟨rfl, spent⟩

theorem exec_stage_completes {i : Instr} (stage : i.isTransaction = false) (s : State) :
    CompletesUnless s.seqSpent (exec i s) := by
  cases i with
  | reset | cfgw | block | endSession | cancel => cases stage
  | avg | gapdet | debounce | brfix | gapend | delimOpen | payload | discard => exact .next _
  | brauto => exact execBrauto_completes s
  | bitdet => exact execBitdet_completes s
  | bitappend => exact execBitappend_completes s
  | bytedone => exact execBytedone_completes s
  | delimClose => exact execDelimClose_completes s
  | msgemit => exact execMsgemit_completes s
  | ifbit => exact execIfbit_completes s

/-- The operation completes and emits nothing. -/
def CompletesSilently (s : State) (r : Result) : Prop := ∃ t, r = .next t ∧ t.out = s.out

theorem illegalTransaction_out (s : State) : (illegalTransaction s).out = s.out := by
  unfold illegalTransaction
  split <;> rfl

theorem execReset_silent (s : State) : CompletesSilently s (execReset s) := by
  unfold execReset
  split <;> exact ⟨_, rfl, rfl⟩

theorem execCfgw_silent (idx : BitVec 8) (value : Word) (s : State) : CompletesSilently s (execCfgw idx value s) := by
  unfold execCfgw
  split
  · exact ⟨_, rfl, illegalTransaction_out s⟩
  · split <;> exact ⟨_, rfl, rfl⟩

theorem execEnd_silent (reason : Bool) (s : State) : CompletesSilently s (execEnd reason s) := by
  unfold execEnd
  split <;> exact ⟨_, rfl, rfl⟩

theorem execCancel_silent (s : State) : CompletesSilently s (execCancel s) := by
  unfold execCancel
  split <;> exact ⟨_, rfl, rfl⟩

/-- A BLOCK is silent unless it runs gap steps: in a session, and of the right length (R84 to R86). -/
theorem execBlock_silent_or_full (xs : List Byte) (s : State) :
    CompletesSilently s (execBlock xs s) ∨ s.runState = .running ∧ xs.length = s.cfg.blockLength := by
  cases run : s.runState with
  | faulted => exact .inl ⟨_, execBlock_of_faulted run xs, rfl⟩
  | halted => exact .inl ⟨_, execBlock_of_halted run xs, rfl⟩
  | running =>
    rw [execBlock_of_running run]
    obtain short | full | long := lt_trichotomy xs.length s.cfg.blockLength
    · exact .inl ⟨_, (if_neg short.not_gt).trans (if_pos short), rfl⟩
    · exact .inr ⟨rfl, full⟩
    · exact .inl ⟨_, if_pos long, rfl⟩

/-- A transaction is silent unless it is a full BLOCK of a running session. -/
theorem exec_transaction_silent_or_block {i : Instr} (transaction : i.isTransaction = true) (s : State) :
    CompletesSilently s (exec i s) ∨
      ∃ xs, i = .block xs ∧ s.runState = .running ∧ xs.length = s.cfg.blockLength := by
  cases i with
  | reset => exact .inl (execReset_silent s)
  | cfgw idx value => exact .inl (execCfgw_silent idx value s)
  | block xs => exact (execBlock_silent_or_full xs s).imp_right fun full => ⟨xs, rfl, full⟩
  | endSession reason => exact .inl (execEnd_silent reason s)
  | cancel => exact .inl (execCancel_silent s)
  | _ => cases transaction

/-- Gap steps are refused only where the numbers do not last. -/
theorem runGaps_refused {n g : Nat} {s : State} {r : Refusal} (h : runGaps n g s = .refused r) :
    r = .sequenceOverflow ∧ ¬NumbersLast n s := by
  refine ⟨?_, fun last => ?_⟩
  · induction n generalizing g s with
    | zero => cases h
    | succ n ih =>
      obtain first | ⟨u, -, later⟩ := andThen_eq_refused.mp h
      · exact (first ▸ gapStep_completes g s).eq_overflow.1
      · exact ih later
  · obtain ⟨t, done⟩ := runGaps_completes (g := g) last
    cases done.symm.trans h

theorem processBlock_refused {xs : List Byte} {s : State} {r : Refusal} (h : processBlock xs s = .refused r) :
    r = .sequenceOverflow ∧ (s.seqSpent = true ∨ 2 ^ 32 < s.seq.toNat + s.cfg.num .g) := by
  obtain gaps | ⟨u, -, idle⟩ := andThen_eq_refused.mp h
  · obtain ⟨overflow, spent⟩ := runGaps_refused gaps
    refine ⟨overflow, Classical.byContradiction fun room => spent (.inr ?_)⟩
    simpa using room
  · cases idle

/-! ## The obligations -/

/-- Settles O27: stage operations complete while a next number exists, a full BLOCK while the numbers last for its gap
steps, and every other transaction always. -/
theorem onlyOverflowRefuses : Obligations.OnlyOverflowRefuses := by
  intro i s r refused
  cases kind : i.isTransaction with
  | false =>
    have completes := exec_stage_completes kind s
    rw [refused] at completes
    exact ⟨completes.eq_overflow.1, .inl completes.eq_overflow.2⟩
  | true =>
    obtain ⟨t, done, -⟩ | ⟨xs, rfl, running, length⟩ := exec_transaction_silent_or_block kind s
    · cases done.symm.trans refused
    · obtain ⟨overflow, cause⟩ := processBlock_refused ((execBlock_of_length running length).symm.trans refused)
      exact ⟨overflow, cause.imp_right fun beyond => ⟨xs, rfl, running, length, beyond⟩⟩

/-- Settles O30: every other transaction is silent. -/
theorem onlyBlocksEmit : Obligations.OnlyBlocksEmit := by
  intro i s t transaction done emitted
  obtain ⟨u, silent, out⟩ | ⟨xs, isBlock, running, length⟩ := exec_transaction_silent_or_block transaction s
  · cases silent.symm.trans done
    exact absurd out emitted
  · exact ⟨running, xs, isBlock, length⟩

/-- Settles O47, with the byte and the parity of the buffer as arithmetic. -/
theorem bytedoneDecodesAndRoutes : Obligations.BytedoneDecodesAndRoutes := by
  intro s
  exact ⟨byteOf s.bb, parityOf s.bb, receivedParity s.cfg s.bb, byteOf_toNat s.bb, parityOf_eq_true, rfl,
    execBytedone_eq s⟩

/-- Settles O51, by whether the byte fails one of its two tests. -/
theorem payloadValidatesAndAppends : Obligations.PayloadValidatesAndAppends := by
  intro s
  refine ⟨payloadChar s.cfg s.work.byte s.work.par s.work.rxp, (ite_eq_or_eq _ _ _).symm, ?_, rfl⟩
  rw [← payload_fails_iff, payloadChar]
  split
  · exact iff_of_true rfl (.inr ‹_›)
  · exact (or_iff_left ‹_›).symm

/-- Settles O54: the four operations complete while a next number exists, within the bit path's frame. -/
theorem bitPathCompletesWithinFrame : Obligations.BitPathCompletesWithinFrame := by
  intro i s named unspent
  have stage : i.isTransaction = false := by rcases named with rfl | rfl | rfl | rfl <;> rfl
  obtain ⟨t, done⟩ := (unspent ▸ exec_stage_completes stage s).exists_next
  have framed : BitFrame s t ∧ (i ≠ .bitdet → t.nSame = s.nSame) ∧ (i = .delimClose → t.bb = s.bb) := by
    rcases named with rfl | rfl | rfl | rfl
    · exact ⟨execBitdet_frame done, by simp, by simp⟩
    · obtain ⟨frame, counter⟩ := execBitappend_frame done
      exact ⟨frame, fun _ => counter, by simp⟩
    · obtain ⟨frame, counter⟩ := (execBytedone_cases done).frame
      exact ⟨frame, fun _ => counter, by simp⟩
    · obtain ⟨frame, counter, buffer⟩ := execDelimClose_bitFrame done
      exact ⟨frame, fun _ => counter, fun _ => buffer⟩
  obtain ⟨frame, counter, buffer⟩ := framed
  exact ⟨t, done, frame.eq_update, counter, buffer, frame.out⟩

/-- Settles O56: the idle line starts with bitrate and tolerance held steps to go. -/
theorem idleLineTiming : Obligations.IdleLineTiming := by
  intro s k interframe held same started fits
  have counter : s.nSame.toNat + (s.bitrate.toNat + s.tolerance.toNat) = s.bitrate.toNat + s.tolerance.toNat + 1 := by
    rw [started]
    exact Nat.add_comm ..
  exact heldSteps_of_idleLine ⟨interframe, held, same, rfl, rfl, counter, fits⟩ k

/-- Settles O44: an edge, else a timeout, else neither; the detected bit is routed by the decoder state. -/
theorem bitdetDetectsAndRoutes : Obligations.BitdetDetectsAndRoutes := by
  refine fun s => ⟨execBitdet_of_quiet, fun change _ => ?_, fun same past _ => ?_⟩
  · exact (execBitdet_of_edge change).trans (routeBit_eq _)
  · exact (execBitdet_of_timeout same past).trans (routeBit_eq _)

/-- Settles O45: the saturated counter is a register content. -/
theorem gapendCountsAndSaturates : Obligations.GapendCountsAndSaturates := by
  intro s
  exact ⟨(afterGapend s).nSame, rfl, afterGapend_nSame s⟩

/-- Settles O46, by whether the stored bit is the W-th. -/
theorem bitappendFillsSlots : Obligations.BitappendFillsSlots := by
  intro s
  have stored : (storeBit s).bbCnt = s.bbCnt + 1 := List.length_append
  refine ⟨fun room => ?_, fun full => ?_⟩
  · exact if_neg (stored.trans_ne room)
  · exact if_pos (stored.trans full)

/-- Settles O48: the meaning of DELIM_OPEN is this one write. -/
theorem delimOpenOnlyOpens : Obligations.DelimOpenOnlyOpens := fun _ => rfl

/-- Settles O49: MSGEMIT below the last number, then Interframe. -/
theorem delimCloseEmitsMessage : Obligations.DelimCloseEmitsMessage := by
  intro s unspent below
  obtain ⟨n, next, emitted⟩ := emitMsg_of_lt unspent below
  refine ⟨n, next, execDelimClose_eq_next.mpr ⟨unspent, ?_⟩⟩
  rw [emitted]

/-- Settles O50, by the number the message carries. -/
theorem msgemitNumbersMessages : Obligations.MsgemitNumbersMessages := by
  refine fun s => ⟨fun unspent below => ?_, fun unspent last => ?_, fun spent => if_pos spent⟩
  · obtain ⟨n, next, emitted⟩ := emitMsg_of_lt unspent below
    exact ⟨n, next, execMsgemit_eq_next.mpr ⟨unspent, emitted.symm⟩⟩
  · exact ⟨(emitMsg s).seq, execMsgemit_eq_next.mpr ⟨unspent, (emitMsg_of_last last).symm⟩⟩

/-- Settles O52: the meaning of DISCARD is the state as it is. -/
theorem discardDropsByte : Obligations.DiscardDropsByte := fun _ => rfl

/-- Settles O53, by the bit. -/
theorem ifbitLeavesInterframeOnZero : Obligations.IfbitLeavesInterframeOnZero :=
  fun _ => ⟨execIfbit_of_zero, execIfbit_of_one⟩

end Sys2Proof.Machine

/-!
SUPPORT. Exceptions and the lifecycle (60_exceptions.md): what a fault leaves of the state (R138, R139), the `run_state` after
each transaction (R152), and the idle core (R151).
-/

namespace Sys2Proof.Machine

open Sys2Proof.Laws

/-! ## What a fault leaves (R138) -/

/-- A transaction that writes the fault history does nothing but raise one fault. -/
theorem TransactionStep.eq_raiseFault {s t : State} (step : TransactionStep s t) (written : t.faults ≠ s.faults) :
    ∃ code : FaultCode, code ≠ .none ∧ t = raiseFault code s := by
  cases step with
  | ignored | started | configured | ended => exact absurd rfl written
  | faulted code raised => exact ⟨code, raised, rfl⟩
  | processed xs _ _ done =>
    obtain ⟨u, gaps, rfl⟩ := processBlock_eq_next.mp done
    exact absurd (runGaps_frame gaps).faults written

theorem faultCode_ne_none {code : FaultCode} : code ≠ .none ↔ code = .configError ∨ code = .illegalTransaction := by
  cases code <;> decide

/-! ## The `run_state` after each transaction (R152) -/

section
variable {s t : State}

theorem execReset_runState (done : execReset s = .next t) :
    t.runState = if configLegal s.cfg = true then .running else .faulted := by
  unfold execReset at done
  split at done <;> cases done <;> simp [*]

theorem execCfgw_runState {idx : BitVec 8} {value : Word} (legal : idx.toNat < 16)
    (done : execCfgw idx value s = .next t) :
    t.runState = if s.runState = .running then .faulted else s.runState := by
  obtain ⟨r, named⟩ := exists_ofIndex legal
  split
  next running =>
    cases (execCfgw_of_running named running value).symm.trans done
    rfl
  next outside =>
    cases (execCfgw_of_outside named outside value).symm.trans done
    rfl

/-- Gap steps leave the session running (R84, R139). -/
theorem processBlock_runState {xs : List Byte} (done : processBlock xs s = .next t) : t.runState = s.runState := by
  obtain ⟨u, gaps, rfl⟩ := processBlock_eq_next.mp done
  exact (runGaps_frame gaps).runState

theorem execBlock_runState {xs : List Byte} (done : execBlock xs s = .next t) :
    t.runState =
      if s.runState = .running then
        if s.cfg.blockLength < xs.length then .faulted
        else if xs.length < s.cfg.blockLength then .halted else .running
      else .faulted := by
  cases run : s.runState with
  | halted =>
    cases (execBlock_of_halted run xs).symm.trans done
    rfl
  | faulted =>
    cases (execBlock_of_faulted run xs).symm.trans done
    exact run
  | running =>
    rw [execBlock_of_running run] at done
    split at done
    next long =>
      cases done
      simp [long]
    next notLong =>
      split at done
      next short =>
        cases done
        simp [notLong, short]
      next full => simp [notLong, full, processBlock_runState done, run]

theorem execEnd_runState {reason : Bool} (done : execEnd reason s = .next t) :
    t.runState = if s.runState = .running then .halted else .faulted := by
  unfold execEnd at done
  split at done <;> cases done <;> simp [*]

theorem execCancel_runState (done : execCancel s = .next t) :
    t.runState = if s.runState = .running then .halted else s.runState := by
  unfold execCancel at done
  split at done <;> cases done <;> simp [*]

end

/-! ## The idle core (R151) -/

/-- A legal header short of its payload words is not decoded (assumption 2). -/
theorem decode_of_short {h : Word} {rest : List Word} (legal : headerProblem h = none)
    (short : rest.length < payloadWords h) : decode (h :: rest) = .waiting := by
  simp [decode, legal, short]

theorem runTransaction_of_waiting {s : State} (h : decode s.rx = .waiting) : runTransaction s = .next s := by
  simp [runTransaction, h]

/-! ## The obligations -/

/-- Settles O26: a transaction that writes the history raises one fault, and no stage operation writes it. -/
theorem faultsArePrecise : Obligations.FaultsArePrecise := by
  refine ⟨fun i s t transaction done written => ?_, fun i s t stage done => ?_⟩
  · obtain ⟨code, raised, rfl⟩ := (exec_transaction_cases transaction done).eq_raiseFault written
    exact ⟨faultCode_ne_none.mp raised, rfl⟩
  · have frame := exec_stage_frame stage done
    exact ⟨frame.runState, frame.faultCode, frame.faults⟩

/-- Settles O31, by the transaction, and for each by the `run_state` it finds. -/
theorem lifecycleTable : Obligations.LifecycleTable := by
  refine ⟨rfl, fun i s t transaction wf done => ?_⟩
  cases i with
  | reset => exact execReset_runState done
  | cfgw idx value =>
    rw [execCfgw_runState (of_decide_eq_true wf) done]
    cases s.runState <;> rfl
  | block xs =>
    rw [execBlock_runState done]
    cases s.runState <;> rfl
  | endSession reason =>
    rw [execEnd_runState done]
    cases s.runState <;> rfl
  | cancel =>
    rw [execCancel_runState done]
    cases s.runState <;> rfl
  | _ => cases transaction

/-- Settles O10: in each of the three cases the decoder waits. -/
theorem idleStepChangesNothing : Obligations.IdleStepChangesNothing := by
  intro s port words
  rw [step_eq_runTransaction port]
  apply runTransaction_of_waiting
  obtain empty | ⟨h, rest, words, block, short⟩ | ⟨h, words, cfgw, index⟩ := words
  · rw [empty]
    rfl
  · have op : h.toNat % 16 = 2 := by omega
    have length : payloadWords h = (h.toNat / 256 + 3) / 4 := by simp [payloadWords_eq, op]
    exact words ▸ decode_of_short (headerProblem_eq_none.mpr (.inr (.inr (.inl block)))) (length ▸ short)
  · have op : h.toNat % 16 = 1 := by omega
    have length : payloadWords h = 1 := by simp [payloadWords_eq, op]
    exact words ▸ decode_of_short (headerProblem_eq_none.mpr (.inr (.inl ⟨cfgw, index⟩))) (length ▸ Nat.one_pos)

end Sys2Proof.Machine
